-- ==== Sys2Proof/Word.lean ====
section
/-! DEFINITION. The machine's data widths (20_memory.md R63): byte, halfword and word. -/

namespace Sys2Proof

/-- A 32-bit value: a register, an address, an instruction word (10_state.md R20, R25; 30_encoding.md R100). -/
abbrev Word := BitVec 32

/-- A 16-bit value: a halfword of memory or an `IMM16` field (20_memory.md R63, 30_encoding.md R101). -/
abbrev Half := BitVec 16

/-- An 8-bit value: one byte of memory (20_memory.md R63). -/
abbrev Byte := BitVec 8

end Sys2Proof
end

