-- ==== Sys2Proof/Syntax.lean ====
section
/-! DEFINITION. The instruction set as terms: one constructor per row of spec/opcode_table.json,
in the table's order, operands in the assembler's order (30_encoding.md R118). The first 81 are the
machine instructions a decoder can yield; the last 19 are the pseudo-instructions the source names,
which the assembler expands (30_encoding.md R120) and no decoder yields. -/

namespace Sys2Proof

/-- A general-purpose register number: the value `i` of a 5-bit register field names `r<i>`
(30_encoding.md R107, 10_state.md R20). -/
abbrev Reg := Fin 32

/-- A control register number as the `IMM5` field of `rdctl` and `wrctl` carries it; the encoding
reaches 0 to 31, the source defines 0 to 5 (30_encoding.md R104). -/
abbrev CtlNum := Fin 32

/-- An operand of `custom`: a general-purpose register (`r`) or a register of the custom logic's own
file (`c`), chosen by `readra`, `readrb` and `writerc` (30_encoding.md R105, R118). -/
inductive XReg where
  | r (i : Reg)
  | c (i : Reg)
deriving DecidableEq, Repr

/-- The instructions. `brk` is the mnemonic `break` (a word of Lean's own). -/
inductive Instr where
  /-- `ldbu rB, IMM16(rA)`: 40_data_transfer.md R136. -/
  | ldbu (rB : Reg) (imm16 : Half) (rA : Reg)
  /-- `addi rB, rA, IMM16`: 41_arith_logic.md R166. -/
  | addi (rB rA : Reg) (imm16 : Half)
  /-- `stb rB, IMM16(rA)`: 40_data_transfer.md R137. -/
  | stb (rB : Reg) (imm16 : Half) (rA : Reg)
  /-- `br label`: 45_program_control.md R234. -/
  | br (imm16 : Half)
  /-- `ldb rB, IMM16(rA)`: 40_data_transfer.md R135. -/
  | ldb (rB : Reg) (imm16 : Half) (rA : Reg)
  /-- `cmpgei rB, rA, IMM16`: 43_compare.md R203. -/
  | cmpgei (rB rA : Reg) (imm16 : Half)
  /-- `ldhu rB, IMM16(rA)`: 40_data_transfer.md R139. -/
  | ldhu (rB : Reg) (imm16 : Half) (rA : Reg)
  /-- `andi rB, rA, IMM16`: 41_arith_logic.md R155. -/
  | andi (rB rA : Reg) (imm16 : Half)
  /-- `sth rB, IMM16(rA)`: 40_data_transfer.md R140. -/
  | sth (rB : Reg) (imm16 : Half) (rA : Reg)
  /-- `bge rA, rB, label`: 45_program_control.md R236. -/
  | bge (rA rB : Reg) (imm16 : Half)
  /-- `ldh rB, IMM16(rA)`: 40_data_transfer.md R138. -/
  | ldh (rB : Reg) (imm16 : Half) (rA : Reg)
  /-- `cmplti rB, rA, IMM16`: 43_compare.md R209. -/
  | cmplti (rB rA : Reg) (imm16 : Half)
  /-- `ori rB, rA, IMM16`: 41_arith_logic.md R156. -/
  | ori (rB rA : Reg) (imm16 : Half)
  /-- `stw rB, IMM16(rA)`: 40_data_transfer.md R132. -/
  | stw (rB : Reg) (imm16 : Half) (rA : Reg)
  /-- `blt rA, rB, label`: 45_program_control.md R242. -/
  | blt (rA rB : Reg) (imm16 : Half)
  /-- `ldw rB, IMM16(rA)`: 40_data_transfer.md R131. -/
  | ldw (rB : Reg) (imm16 : Half) (rA : Reg)
  /-- `cmpnei rB, rA, IMM16`: 43_compare.md R202. -/
  | cmpnei (rB rA : Reg) (imm16 : Half)
  /-- `xori rB, rA, IMM16`: 41_arith_logic.md R157. -/
  | xori (rB rA : Reg) (imm16 : Half)
  /-- `bne rA, rB, label`: 45_program_control.md R245. -/
  | bne (rA rB : Reg) (imm16 : Half)
  /-- `cmpeqi rB, rA, IMM16`: 43_compare.md R201. -/
  | cmpeqi (rB rA : Reg) (imm16 : Half)
  /-- `ldbuio rB, IMM16(rA)`: 40_data_transfer.md R142. -/
  | ldbuio (rB : Reg) (imm16 : Half) (rA : Reg)
  /-- `muli rB, rA, IMM16`: 41_arith_logic.md R168. -/
  | muli (rB rA : Reg) (imm16 : Half)
  /-- `stbio rB, IMM16(rA)`: 40_data_transfer.md R143. -/
  | stbio (rB : Reg) (imm16 : Half) (rA : Reg)
  /-- `beq rA, rB, label`: 45_program_control.md R244. -/
  | beq (rA rB : Reg) (imm16 : Half)
  /-- `ldbio rB, IMM16(rA)`: 40_data_transfer.md R141. -/
  | ldbio (rB : Reg) (imm16 : Half) (rA : Reg)
  /-- `cmpgeui rB, rA, IMM16`: 43_compare.md R204. -/
  | cmpgeui (rB rA : Reg) (imm16 : Half)
  /-- `ldhuio rB, IMM16(rA)`: 40_data_transfer.md R145. -/
  | ldhuio (rB : Reg) (imm16 : Half) (rA : Reg)
  /-- `andhi rB, rA, IMM16`: 41_arith_logic.md R158. -/
  | andhi (rB rA : Reg) (imm16 : Half)
  /-- `sthio rB, IMM16(rA)`: 40_data_transfer.md R146. -/
  | sthio (rB : Reg) (imm16 : Half) (rA : Reg)
  /-- `bgeu rA, rB, label`: 45_program_control.md R237. -/
  | bgeu (rA rB : Reg) (imm16 : Half)
  /-- `ldhio rB, IMM16(rA)`: 40_data_transfer.md R144. -/
  | ldhio (rB : Reg) (imm16 : Half) (rA : Reg)
  /-- `cmpltui rB, rA, IMM16`: 43_compare.md R210. -/
  | cmpltui (rB rA : Reg) (imm16 : Half)
  /-- `initd IMM16(rA)`: 46_other_control.md R258. -/
  | initd (imm16 : Half) (rA : Reg)
  /-- `orhi rB, rA, IMM16`: 41_arith_logic.md R159. -/
  | orhi (rB rA : Reg) (imm16 : Half)
  /-- `stwio rB, IMM16(rA)`: 40_data_transfer.md R134. -/
  | stwio (rB : Reg) (imm16 : Half) (rA : Reg)
  /-- `bltu rA, rB, label`: 45_program_control.md R243. -/
  | bltu (rA rB : Reg) (imm16 : Half)
  /-- `ldwio rB, IMM16(rA)`: 40_data_transfer.md R133. -/
  | ldwio (rB : Reg) (imm16 : Half) (rA : Reg)
  /-- `flushd IMM16(rA)`: 46_other_control.md R257. -/
  | flushd (imm16 : Half) (rA : Reg)
  /-- `xorhi rB, rA, IMM16`: 41_arith_logic.md R160. -/
  | xorhi (rB rA : Reg) (imm16 : Half)
  /-- `call label`: 45_program_control.md R230. -/
  | call (imm26 : BitVec 26)
  /-- `custom N, xC, xA, xB`: 47_custom_nop_unimplemented.md R270. -/
  | custom (n : Byte) (xC xA xB : XReg)
  /-- `eret`: 46_other_control.md R251. -/
  | eret
  /-- `roli rC, rA, IMM5`: 44_shift_rotate.md R218. -/
  | roli (rC rA : Reg) (imm5 : BitVec 5)
  /-- `rol rC, rA, rB`: 44_shift_rotate.md R216. -/
  | rol (rC rA rB : Reg)
  /-- `flushp`: 46_other_control.md R262. -/
  | flushp
  /-- `ret`: 45_program_control.md R232. -/
  | ret
  /-- `nor rC, rA, rB`: 41_arith_logic.md R154. -/
  | nor (rC rA rB : Reg)
  /-- `mulxuu rC, rA, rB`: 41_arith_logic.md R170. -/
  | mulxuu (rC rA rB : Reg)
  /-- `cmpge rC, rA, rB`: 43_compare.md R193. -/
  | cmpge (rC rA rB : Reg)
  /-- `bret`: 46_other_control.md R253. The `C` field is ignored (30_encoding.md R109, note). -/
  | bret (fieldC : BitVec 5)
  /-- `ror rC, rA, rB`: 44_shift_rotate.md R217. -/
  | ror (rC rA rB : Reg)
  /-- `flushi rA`: 46_other_control.md R259. -/
  | flushi (rA : Reg)
  /-- `jmp rA`: 45_program_control.md R233. -/
  | jmp (rA : Reg)
  /-- `and rC, rA, rB`: 41_arith_logic.md R151. -/
  | and (rC rA rB : Reg)
  /-- `cmplt rC, rA, rB`: 43_compare.md R199. -/
  | cmplt (rC rA rB : Reg)
  /-- `slli rC, rA, IMM5`: 44_shift_rotate.md R220. -/
  | slli (rC rA : Reg) (imm5 : BitVec 5)
  /-- `sll rC, rA, rB`: 44_shift_rotate.md R219. -/
  | sll (rC rA rB : Reg)
  /-- `or rC, rA, rB`: 41_arith_logic.md R152. -/
  | or (rC rA rB : Reg)
  /-- `mulxsu rC, rA, rB`: 41_arith_logic.md R171. -/
  | mulxsu (rC rA rB : Reg)
  /-- `cmpne rC, rA, rB`: 43_compare.md R192. -/
  | cmpne (rC rA rB : Reg)
  /-- `srli rC, rA, IMM5`: 44_shift_rotate.md R224. -/
  | srli (rC rA : Reg) (imm5 : BitVec 5)
  /-- `srl rC, rA, rB`: 44_shift_rotate.md R222. -/
  | srl (rC rA rB : Reg)
  /-- `callr rA`: 45_program_control.md R231. -/
  | callr (rA : Reg)
  /-- `xor rC, rA, rB`: 41_arith_logic.md R153. -/
  | xor (rC rA rB : Reg)
  /-- `mulxss rC, rA, rB`: 41_arith_logic.md R169. -/
  | mulxss (rC rA rB : Reg)
  /-- `cmpeq rC, rA, rB`: 43_compare.md R191. -/
  | cmpeq (rC rA rB : Reg)
  /-- `divu rC, rA, rB`: 41_arith_logic.md R165. -/
  | divu (rC rA rB : Reg)
  /-- `div rC, rA, rB`: 41_arith_logic.md R164. -/
  | div (rC rA rB : Reg)
  /-- `rdctl rC, ctlN`: 46_other_control.md R254. -/
  | rdctl (rC : Reg) (n : CtlNum)
  /-- `mul rC, rA, rB`: 41_arith_logic.md R163. -/
  | mul (rC rA rB : Reg)
  /-- `cmpgeu rC, rA, rB`: 43_compare.md R194. -/
  | cmpgeu (rC rA rB : Reg)
  /-- `initi rA`: 46_other_control.md R260. -/
  | initi (rA : Reg)
  /-- `trap`: 46_other_control.md R250. -/
  | trap
  /-- `wrctl ctlN, rA`: 46_other_control.md R255. -/
  | wrctl (n : CtlNum) (rA : Reg)
  /-- `cmpltu rC, rA, rB`: 43_compare.md R200. -/
  | cmpltu (rC rA rB : Reg)
  /-- `add rC, rA, rB`: 41_arith_logic.md R161. -/
  | add (rC rA rB : Reg)
  /-- `break`: 46_other_control.md R252. `IMM5` is free for the debugger and ignored by the hardware. -/
  | brk (imm5 : BitVec 5)
  /-- `sync`: 46_other_control.md R263. -/
  | sync
  /-- `sub rC, rA, rB`: 41_arith_logic.md R162. -/
  | sub (rC rA rB : Reg)
  /-- `srai rC, rA, IMM5`: 44_shift_rotate.md R223. -/
  | srai (rC rA : Reg) (imm5 : BitVec 5)
  /-- `sra rC, rA, rB`: 44_shift_rotate.md R221. -/
  | sra (rC rA rB : Reg)
  /-- Pseudo-instruction `mov rC, rA`: 42_move.md R180. -/
  | mov (rC rA : Reg)
  /-- Pseudo-instruction `movhi rB, IMM16`: 42_move.md R181. -/
  | movhi (rB : Reg) (imm16 : Half)
  /-- Pseudo-instruction `movi rB, IMM16`: 42_move.md R182. -/
  | movi (rB : Reg) (imm16 : Half)
  /-- Pseudo-instruction `movui rB, IMM16`: 42_move.md R183. -/
  | movui (rB : Reg) (imm16 : Half)
  /-- Pseudo-instruction `movia rB, label`: 42_move.md R184. -/
  | movia (rB : Reg) (label : Word)
  /-- Pseudo-instruction `nop`: 47_custom_nop_unimplemented.md R271. -/
  | nop
  /-- Pseudo-instruction `subi rB, rA, IMM16`: 41_arith_logic.md R167. The operand is the number the assembler is given. -/
  | subi (rB rA : Reg) (imm : Int)
  /-- Pseudo-instruction `cmpgt rC, rA, rB`: 43_compare.md R195. -/
  | cmpgt (rC rA rB : Reg)
  /-- Pseudo-instruction `cmpgtu rC, rA, rB`: 43_compare.md R196. -/
  | cmpgtu (rC rA rB : Reg)
  /-- Pseudo-instruction `cmple rC, rA, rB`: 43_compare.md R197. -/
  | cmple (rC rA rB : Reg)
  /-- Pseudo-instruction `cmpleu rC, rA, rB`: 43_compare.md R198. -/
  | cmpleu (rC rA rB : Reg)
  /-- Pseudo-instruction `cmpgti rB, rA, IMM16`: 43_compare.md R205. -/
  | cmpgti (rB rA : Reg) (imm16 : Half)
  /-- Pseudo-instruction `cmpgtui rB, rA, IMM16`: 43_compare.md R206. -/
  | cmpgtui (rB rA : Reg) (imm16 : Half)
  /-- Pseudo-instruction `cmplei rB, rA, IMM16`: 43_compare.md R207. -/
  | cmplei (rB rA : Reg) (imm16 : Half)
  /-- Pseudo-instruction `cmpleui rB, rA, IMM16`: 43_compare.md R208. -/
  | cmpleui (rB rA : Reg) (imm16 : Half)
  /-- Pseudo-instruction `bgt rA, rB, label`: 45_program_control.md R238. -/
  | bgt (rA rB : Reg) (imm16 : Half)
  /-- Pseudo-instruction `bgtu rA, rB, label`: 45_program_control.md R239. -/
  | bgtu (rA rB : Reg) (imm16 : Half)
  /-- Pseudo-instruction `ble rA, rB, label`: 45_program_control.md R240. -/
  | ble (rA rB : Reg) (imm16 : Half)
  /-- Pseudo-instruction `bleu rA, rB, label`: 45_program_control.md R241. -/
  | bleu (rA rB : Reg) (imm16 : Half)
deriving DecidableEq, Repr

end Sys2Proof
end

