-- ==== Sys2Proof/Decode.lean ====
section
/-! DEFINITION. The encoding (30_encoding.md R100 to R111; PRESUMED: from general knowledge, 92 D1, log entry 11): fields,
the strict decoder (92 D33), total on any bytes and rejecting by name, and after it the encoder and
the assembler's expansions of the pseudo-instructions (R120). -/

namespace Sys2Proof

/-- Why a sequence of bytes is no instruction. -/
inductive Invalid where
  /-- Fewer than the 4 bytes of an instruction (30_encoding.md R100). -/
  | truncated
  /-- An `OP` value that carries no instruction in scope (30_encoding.md R108, R112). -/
  | unassignedOp (op : BitVec 6)
  /-- An `OPX` value that carries no instruction in scope (30_encoding.md R109, R112). -/
  | unassignedOpx (opx : BitVec 6)
  /-- A fixed field holds another value than the table's (30_encoding.md R111, strict decoding). -/
  | fixedField (word : Word)
deriving DecidableEq, Repr

/-- The field `OP`, bits 5..0 of every format (30_encoding.md R100). -/
def fieldOp (w : Word) : BitVec 6 := w.extractLsb' 0 6

/-- The field `OPX`, bits 16..11 of the R-type (30_encoding.md R102). -/
def fieldOpx (w : Word) : BitVec 6 := w.extractLsb' 11 6

/-- The field `A`, bits 31..27 (30_encoding.md R101, R102). -/
def fieldA (w : Word) : Reg := (w.extractLsb' 27 5).toFin

/-- The field `B`, bits 26..22 (30_encoding.md R101, R102). -/
def fieldB (w : Word) : Reg := (w.extractLsb' 22 5).toFin

/-- The field `C`, bits 21..17 of the R-type (30_encoding.md R102). -/
def fieldC (w : Word) : Reg := (w.extractLsb' 17 5).toFin

/-- The field `IMM16`, bits 21..6 of the I-type (30_encoding.md R101). -/
def fieldImm16 (w : Word) : Half := w.extractLsb' 6 16

/-- The field `IMM5`, bits 10..6 of the R-type (30_encoding.md R102). -/
def fieldImm5 (w : Word) : BitVec 5 := w.extractLsb' 6 5

/-- The field `IMM26`, bits 31..6 of the J-type (30_encoding.md R103). -/
def fieldImm26 (w : Word) : BitVec 26 := w.extractLsb' 6 26

/-- The field `N` of `custom`, bits 13..6 (30_encoding.md R105). -/
def fieldN (w : Word) : Byte := w.extractLsb' 6 8

/-- A `custom` operand: `r<i>` when its flag bit is 1, `c<i>` when it is 0 (30_encoding.md R105). -/
def xreg (flag : BitVec 1) (i : Reg) : XReg := if flag = 1#1 then .r i else .c i

/-- The flag bit of a `custom` operand (30_encoding.md R105). -/
def XReg.flag : XReg → BitVec 1
  | .r _ => 1#1
  | .c _ => 0#1

/-- The register number of a `custom` operand (30_encoding.md R105). -/
def XReg.index : XReg → Reg
  | .r i => i
  | .c i => i

/-- The strict check of a word's fixed fields: `ok` says that they hold the table's values
(30_encoding.md R111). -/
def strictly (ok : Bool) (w : Word) (i : Instr) : Except Invalid Instr :=
  if ok then .ok i else .error (.fixedField w)

/-- The R-type words, `OP = 0x3A`, by `OPX` (30_encoding.md R109, R110). -/
def decodeR (w : Word) : Except Invalid Instr :=
  match (fieldOpx w).toNat with
  | 0x01 => strictly (fieldA w == 29 && fieldB w == 30 && fieldC w == 0 && fieldImm5 w == 0) w .eret
  | 0x02 => strictly (fieldB w == 0) w (.roli (fieldC w) (fieldA w) (fieldImm5 w))
  | 0x03 => strictly (fieldImm5 w == 0) w (.rol (fieldC w) (fieldA w) (fieldB w))
  | 0x04 => strictly (fieldA w == 0 && fieldB w == 0 && fieldC w == 0 && fieldImm5 w == 0) w .flushp
  | 0x05 => strictly (fieldA w == 31 && fieldB w == 0 && fieldC w == 0 && fieldImm5 w == 0) w .ret
  | 0x06 => strictly (fieldImm5 w == 0) w (.nor (fieldC w) (fieldA w) (fieldB w))
  | 0x07 => strictly (fieldImm5 w == 0) w (.mulxuu (fieldC w) (fieldA w) (fieldB w))
  | 0x08 => strictly (fieldImm5 w == 0) w (.cmpge (fieldC w) (fieldA w) (fieldB w))
  | 0x09 => strictly (fieldA w == 30 && fieldB w == 0 && fieldImm5 w == 0) w (.bret (BitVec.ofFin (fieldC w)))
  | 0x0B => strictly (fieldImm5 w == 0) w (.ror (fieldC w) (fieldA w) (fieldB w))
  | 0x0C => strictly (fieldB w == 0 && fieldC w == 0 && fieldImm5 w == 0) w (.flushi (fieldA w))
  | 0x0D => strictly (fieldB w == 0 && fieldC w == 0 && fieldImm5 w == 0) w (.jmp (fieldA w))
  | 0x0E => strictly (fieldImm5 w == 0) w (.and (fieldC w) (fieldA w) (fieldB w))
  | 0x10 => strictly (fieldImm5 w == 0) w (.cmplt (fieldC w) (fieldA w) (fieldB w))
  | 0x12 => strictly (fieldB w == 0) w (.slli (fieldC w) (fieldA w) (fieldImm5 w))
  | 0x13 => strictly (fieldImm5 w == 0) w (.sll (fieldC w) (fieldA w) (fieldB w))
  | 0x16 => strictly (fieldImm5 w == 0) w (.or (fieldC w) (fieldA w) (fieldB w))
  | 0x17 => strictly (fieldImm5 w == 0) w (.mulxsu (fieldC w) (fieldA w) (fieldB w))
  | 0x18 => strictly (fieldImm5 w == 0) w (.cmpne (fieldC w) (fieldA w) (fieldB w))
  | 0x1A => strictly (fieldB w == 0) w (.srli (fieldC w) (fieldA w) (fieldImm5 w))
  | 0x1B => strictly (fieldImm5 w == 0) w (.srl (fieldC w) (fieldA w) (fieldB w))
  | 0x1D => strictly (fieldB w == 0 && fieldC w == 31 && fieldImm5 w == 0) w (.callr (fieldA w))
  | 0x1E => strictly (fieldImm5 w == 0) w (.xor (fieldC w) (fieldA w) (fieldB w))
  | 0x1F => strictly (fieldImm5 w == 0) w (.mulxss (fieldC w) (fieldA w) (fieldB w))
  | 0x20 => strictly (fieldImm5 w == 0) w (.cmpeq (fieldC w) (fieldA w) (fieldB w))
  | 0x24 => strictly (fieldImm5 w == 0) w (.divu (fieldC w) (fieldA w) (fieldB w))
  | 0x25 => strictly (fieldImm5 w == 0) w (.div (fieldC w) (fieldA w) (fieldB w))
  | 0x26 => strictly (fieldA w == 0 && fieldB w == 0) w (.rdctl (fieldC w) (fieldImm5 w).toFin)
  | 0x27 => strictly (fieldImm5 w == 0) w (.mul (fieldC w) (fieldA w) (fieldB w))
  | 0x28 => strictly (fieldImm5 w == 0) w (.cmpgeu (fieldC w) (fieldA w) (fieldB w))
  | 0x29 => strictly (fieldB w == 0 && fieldC w == 0 && fieldImm5 w == 0) w (.initi (fieldA w))
  | 0x2D => strictly (fieldA w == 0 && fieldB w == 0 && fieldC w == 29 && fieldImm5 w == 0) w .trap
  | 0x2E => strictly (fieldB w == 0 && fieldC w == 0) w (.wrctl (fieldImm5 w).toFin (fieldA w))
  | 0x30 => strictly (fieldImm5 w == 0) w (.cmpltu (fieldC w) (fieldA w) (fieldB w))
  | 0x31 => strictly (fieldImm5 w == 0) w (.add (fieldC w) (fieldA w) (fieldB w))
  | 0x34 => strictly (fieldA w == 0 && fieldB w == 0 && fieldC w == 30) w (.brk (fieldImm5 w))
  | 0x36 => strictly (fieldA w == 0 && fieldB w == 0 && fieldC w == 0 && fieldImm5 w == 0) w .sync
  | 0x39 => strictly (fieldImm5 w == 0) w (.sub (fieldC w) (fieldA w) (fieldB w))
  | 0x3A => strictly (fieldB w == 0) w (.srai (fieldC w) (fieldA w) (fieldImm5 w))
  | 0x3B => strictly (fieldImm5 w == 0) w (.sra (fieldC w) (fieldA w) (fieldB w))
  | _ => .error (.unassignedOpx (fieldOpx w))

/-- The decode procedure (30_encoding.md R110) over the `OP` table (R108). -/
def decodeWord (w : Word) : Except Invalid Instr :=
  match (fieldOp w).toNat with
  | 0x00 => .ok (.call (fieldImm26 w))
  | 0x03 => .ok (.ldbu (fieldB w) (fieldImm16 w) (fieldA w))
  | 0x04 => .ok (.addi (fieldB w) (fieldA w) (fieldImm16 w))
  | 0x05 => .ok (.stb (fieldB w) (fieldImm16 w) (fieldA w))
  | 0x06 => strictly (fieldA w == 0 && fieldB w == 0) w (.br (fieldImm16 w))
  | 0x07 => .ok (.ldb (fieldB w) (fieldImm16 w) (fieldA w))
  | 0x08 => .ok (.cmpgei (fieldB w) (fieldA w) (fieldImm16 w))
  | 0x0B => .ok (.ldhu (fieldB w) (fieldImm16 w) (fieldA w))
  | 0x0C => .ok (.andi (fieldB w) (fieldA w) (fieldImm16 w))
  | 0x0D => .ok (.sth (fieldB w) (fieldImm16 w) (fieldA w))
  | 0x0E => .ok (.bge (fieldA w) (fieldB w) (fieldImm16 w))
  | 0x0F => .ok (.ldh (fieldB w) (fieldImm16 w) (fieldA w))
  | 0x10 => .ok (.cmplti (fieldB w) (fieldA w) (fieldImm16 w))
  | 0x14 => .ok (.ori (fieldB w) (fieldA w) (fieldImm16 w))
  | 0x15 => .ok (.stw (fieldB w) (fieldImm16 w) (fieldA w))
  | 0x16 => .ok (.blt (fieldA w) (fieldB w) (fieldImm16 w))
  | 0x17 => .ok (.ldw (fieldB w) (fieldImm16 w) (fieldA w))
  | 0x18 => .ok (.cmpnei (fieldB w) (fieldA w) (fieldImm16 w))
  | 0x1C => .ok (.xori (fieldB w) (fieldA w) (fieldImm16 w))
  | 0x1E => .ok (.bne (fieldA w) (fieldB w) (fieldImm16 w))
  | 0x20 => .ok (.cmpeqi (fieldB w) (fieldA w) (fieldImm16 w))
  | 0x23 => .ok (.ldbuio (fieldB w) (fieldImm16 w) (fieldA w))
  | 0x24 => .ok (.muli (fieldB w) (fieldA w) (fieldImm16 w))
  | 0x25 => .ok (.stbio (fieldB w) (fieldImm16 w) (fieldA w))
  | 0x26 => .ok (.beq (fieldA w) (fieldB w) (fieldImm16 w))
  | 0x27 => .ok (.ldbio (fieldB w) (fieldImm16 w) (fieldA w))
  | 0x28 => .ok (.cmpgeui (fieldB w) (fieldA w) (fieldImm16 w))
  | 0x2B => .ok (.ldhuio (fieldB w) (fieldImm16 w) (fieldA w))
  | 0x2C => .ok (.andhi (fieldB w) (fieldA w) (fieldImm16 w))
  | 0x2D => .ok (.sthio (fieldB w) (fieldImm16 w) (fieldA w))
  | 0x2E => .ok (.bgeu (fieldA w) (fieldB w) (fieldImm16 w))
  | 0x2F => .ok (.ldhio (fieldB w) (fieldImm16 w) (fieldA w))
  | 0x30 => .ok (.cmpltui (fieldB w) (fieldA w) (fieldImm16 w))
  | 0x32 => .ok (.custom (fieldN w) (xreg (w.extractLsb' 14 1) (fieldC w))
      (xreg (w.extractLsb' 16 1) (fieldA w)) (xreg (w.extractLsb' 15 1) (fieldB w)))
  | 0x33 => strictly (fieldB w == 0) w (.initd (fieldImm16 w) (fieldA w))
  | 0x34 => .ok (.orhi (fieldB w) (fieldA w) (fieldImm16 w))
  | 0x35 => .ok (.stwio (fieldB w) (fieldImm16 w) (fieldA w))
  | 0x36 => .ok (.bltu (fieldA w) (fieldB w) (fieldImm16 w))
  | 0x37 => .ok (.ldwio (fieldB w) (fieldImm16 w) (fieldA w))
  | 0x3A => decodeR w
  | 0x3B => strictly (fieldB w == 0) w (.flushd (fieldImm16 w) (fieldA w))
  | 0x3C => .ok (.xorhi (fieldB w) (fieldA w) (fieldImm16 w))
  | _ => .error (.unassignedOp (fieldOp w))

/-- The 32-bit word whose bytes, lowest address first, are the four given: little-endian
(20_memory.md R64, R65). -/
def wordOfBytes (b0 b1 b2 b3 : Byte) : Word := b3 ++ b2 ++ b1 ++ b0

/-- Byte `k` of a word, that is the byte the word stores at its address plus `k` (20_memory.md R64). -/
def byteOf (w : Word) (k : Nat) : Byte := w.extractLsb' (8 * k) 8

/-- Decoding of the bytes of memory from the lowest address up: the instruction and the bytes after it. -/
def decode : List Byte → Except Invalid (Instr × List Byte)
  | b0 :: b1 :: b2 :: b3 :: rest =>
    match decodeWord (wordOfBytes b0 b1 b2 b3) with
    | .ok i => .ok (i, rest)
    | .error e => .error e
  | _ => .error .truncated

/-- The bytes of a word as memory holds them, lowest address first (20_memory.md R64). -/
def bytesOf (w : Word) : List Byte := [byteOf w 0, byteOf w 1, byteOf w 2, byteOf w 3]

/-- The instruction the decoder reads from an opcode-table word `w` of `nbits` bits; bits above
`nbits` are 0 and one instruction is 32 bits. -/
def decodeTableWord (nbits w : Nat) : Option Instr :=
  match decode (bytesOf (BitVec.ofNat 32 (w % 2 ^ nbits))) with
  | .ok (i, _) => some i
  | .error _ => none

/-- The I-type word (30_encoding.md R101). -/
def iWord (a b : Reg) (imm16 : Half) (op : BitVec 6) : Word :=
  BitVec.ofFin (w := 5) a ++ BitVec.ofFin (w := 5) b ++ imm16 ++ op

/-- The R-type word (30_encoding.md R102). -/
def rWord (a b c : Reg) (opx : BitVec 6) (imm5 : BitVec 5) : Word :=
  BitVec.ofFin (w := 5) a ++ BitVec.ofFin (w := 5) b ++ BitVec.ofFin (w := 5) c ++ opx ++ imm5 ++ 0x3A#6

/-- The J-type word (30_encoding.md R103). -/
def jWord (imm26 : BitVec 26) (op : BitVec 6) : Word := imm26 ++ op

/-- The word of `custom` (30_encoding.md R105). -/
def customWord (n : Byte) (xC xA xB : XReg) : Word :=
  BitVec.ofFin (w := 5) xA.index ++ BitVec.ofFin (w := 5) xB.index ++ BitVec.ofFin (w := 5) xC.index ++
    xA.flag ++ xB.flag ++ xC.flag ++ n ++ 0x32#6

/-- `%hiadj` (30_encoding.md R119). -/
def hiadj (v : Word) : Half := v.extractLsb' 16 16 + (v.extractLsb' 15 1).setWidth 16

/-- `%hi` (30_encoding.md R119). -/
def hi (v : Word) : Half := v.extractLsb' 16 16

/-- `%lo` (30_encoding.md R119). -/
def lo (v : Word) : Half := v.extractLsb' 0 16

/-- The words the assembler emits for an instruction: one, and two for `movia`
(30_encoding.md R108, R109, R120). -/
def encode : Instr → List Word
  | .ldbu rB imm16 rA => [iWord rA rB imm16 0x03#6]
  | .addi rB rA imm16 => [iWord rA rB imm16 0x04#6]
  | .stb rB imm16 rA => [iWord rA rB imm16 0x05#6]
  | .br imm16 => [iWord 0 0 imm16 0x06#6]
  | .ldb rB imm16 rA => [iWord rA rB imm16 0x07#6]
  | .cmpgei rB rA imm16 => [iWord rA rB imm16 0x08#6]
  | .ldhu rB imm16 rA => [iWord rA rB imm16 0x0B#6]
  | .andi rB rA imm16 => [iWord rA rB imm16 0x0C#6]
  | .sth rB imm16 rA => [iWord rA rB imm16 0x0D#6]
  | .bge rA rB imm16 => [iWord rA rB imm16 0x0E#6]
  | .ldh rB imm16 rA => [iWord rA rB imm16 0x0F#6]
  | .cmplti rB rA imm16 => [iWord rA rB imm16 0x10#6]
  | .ori rB rA imm16 => [iWord rA rB imm16 0x14#6]
  | .stw rB imm16 rA => [iWord rA rB imm16 0x15#6]
  | .blt rA rB imm16 => [iWord rA rB imm16 0x16#6]
  | .ldw rB imm16 rA => [iWord rA rB imm16 0x17#6]
  | .cmpnei rB rA imm16 => [iWord rA rB imm16 0x18#6]
  | .xori rB rA imm16 => [iWord rA rB imm16 0x1C#6]
  | .bne rA rB imm16 => [iWord rA rB imm16 0x1E#6]
  | .cmpeqi rB rA imm16 => [iWord rA rB imm16 0x20#6]
  | .ldbuio rB imm16 rA => [iWord rA rB imm16 0x23#6]
  | .muli rB rA imm16 => [iWord rA rB imm16 0x24#6]
  | .stbio rB imm16 rA => [iWord rA rB imm16 0x25#6]
  | .beq rA rB imm16 => [iWord rA rB imm16 0x26#6]
  | .ldbio rB imm16 rA => [iWord rA rB imm16 0x27#6]
  | .cmpgeui rB rA imm16 => [iWord rA rB imm16 0x28#6]
  | .ldhuio rB imm16 rA => [iWord rA rB imm16 0x2B#6]
  | .andhi rB rA imm16 => [iWord rA rB imm16 0x2C#6]
  | .sthio rB imm16 rA => [iWord rA rB imm16 0x2D#6]
  | .bgeu rA rB imm16 => [iWord rA rB imm16 0x2E#6]
  | .ldhio rB imm16 rA => [iWord rA rB imm16 0x2F#6]
  | .cmpltui rB rA imm16 => [iWord rA rB imm16 0x30#6]
  | .initd imm16 rA => [iWord rA 0 imm16 0x33#6]
  | .orhi rB rA imm16 => [iWord rA rB imm16 0x34#6]
  | .stwio rB imm16 rA => [iWord rA rB imm16 0x35#6]
  | .bltu rA rB imm16 => [iWord rA rB imm16 0x36#6]
  | .ldwio rB imm16 rA => [iWord rA rB imm16 0x37#6]
  | .flushd imm16 rA => [iWord rA 0 imm16 0x3B#6]
  | .xorhi rB rA imm16 => [iWord rA rB imm16 0x3C#6]
  | .call imm26 => [jWord imm26 0x00#6]
  | .custom n xC xA xB => [customWord n xC xA xB]
  | .eret => [rWord 29 30 0 0x01#6 0]
  | .roli rC rA imm5 => [rWord rA 0 rC 0x02#6 imm5]
  | .rol rC rA rB => [rWord rA rB rC 0x03#6 0]
  | .flushp => [rWord 0 0 0 0x04#6 0]
  | .ret => [rWord 31 0 0 0x05#6 0]
  | .nor rC rA rB => [rWord rA rB rC 0x06#6 0]
  | .mulxuu rC rA rB => [rWord rA rB rC 0x07#6 0]
  | .cmpge rC rA rB => [rWord rA rB rC 0x08#6 0]
  | .bret fieldC => [rWord 30 0 fieldC.toFin 0x09#6 0]
  | .ror rC rA rB => [rWord rA rB rC 0x0B#6 0]
  | .flushi rA => [rWord rA 0 0 0x0C#6 0]
  | .jmp rA => [rWord rA 0 0 0x0D#6 0]
  | .and rC rA rB => [rWord rA rB rC 0x0E#6 0]
  | .cmplt rC rA rB => [rWord rA rB rC 0x10#6 0]
  | .slli rC rA imm5 => [rWord rA 0 rC 0x12#6 imm5]
  | .sll rC rA rB => [rWord rA rB rC 0x13#6 0]
  | .or rC rA rB => [rWord rA rB rC 0x16#6 0]
  | .mulxsu rC rA rB => [rWord rA rB rC 0x17#6 0]
  | .cmpne rC rA rB => [rWord rA rB rC 0x18#6 0]
  | .srli rC rA imm5 => [rWord rA 0 rC 0x1A#6 imm5]
  | .srl rC rA rB => [rWord rA rB rC 0x1B#6 0]
  | .callr rA => [rWord rA 0 31 0x1D#6 0]
  | .xor rC rA rB => [rWord rA rB rC 0x1E#6 0]
  | .mulxss rC rA rB => [rWord rA rB rC 0x1F#6 0]
  | .cmpeq rC rA rB => [rWord rA rB rC 0x20#6 0]
  | .divu rC rA rB => [rWord rA rB rC 0x24#6 0]
  | .div rC rA rB => [rWord rA rB rC 0x25#6 0]
  | .rdctl rC n => [rWord 0 0 rC 0x26#6 (BitVec.ofFin (w := 5) n)]
  | .mul rC rA rB => [rWord rA rB rC 0x27#6 0]
  | .cmpgeu rC rA rB => [rWord rA rB rC 0x28#6 0]
  | .initi rA => [rWord rA 0 0 0x29#6 0]
  | .trap => [rWord 0 0 29 0x2D#6 0]
  | .wrctl n rA => [rWord rA 0 0 0x2E#6 (BitVec.ofFin (w := 5) n)]
  | .cmpltu rC rA rB => [rWord rA rB rC 0x30#6 0]
  | .add rC rA rB => [rWord rA rB rC 0x31#6 0]
  | .brk imm5 => [rWord 0 0 30 0x34#6 imm5]
  | .sync => [rWord 0 0 0 0x36#6 0]
  | .sub rC rA rB => [rWord rA rB rC 0x39#6 0]
  | .srai rC rA imm5 => [rWord rA 0 rC 0x3A#6 imm5]
  | .sra rC rA rB => [rWord rA rB rC 0x3B#6 0]
  | .mov rC rA => [rWord rA 0 rC 0x31#6 0]
  | .movhi rB imm16 => [iWord 0 rB imm16 0x34#6]
  | .movi rB imm16 => [iWord 0 rB imm16 0x04#6]
  | .movui rB imm16 => [iWord 0 rB imm16 0x14#6]
  | .movia rB label => [iWord 0 rB (hiadj label) 0x34#6, iWord rB rB (lo label) 0x04#6]
  | .nop => [rWord 0 0 0 0x31#6 0]
  | .subi rB rA imm => [iWord rA rB (BitVec.ofInt 16 (-imm)) 0x04#6]
  | .cmpgt rC rA rB => [rWord rB rA rC 0x10#6 0]
  | .cmpgtu rC rA rB => [rWord rB rA rC 0x30#6 0]
  | .cmple rC rA rB => [rWord rB rA rC 0x08#6 0]
  | .cmpleu rC rA rB => [rWord rB rA rC 0x28#6 0]
  | .cmpgti rB rA imm16 => [iWord rA rB (imm16 + 1) 0x08#6]
  | .cmpgtui rB rA imm16 => [iWord rA rB (imm16 + 1) 0x28#6]
  | .cmplei rB rA imm16 => [iWord rA rB (imm16 + 1) 0x10#6]
  | .cmpleui rB rA imm16 => [iWord rA rB (imm16 + 1) 0x30#6]
  | .bgt rA rB imm16 => [iWord rB rA imm16 0x16#6]
  | .bgtu rA rB imm16 => [iWord rB rA imm16 0x36#6]
  | .ble rA rB imm16 => [iWord rB rA imm16 0x0E#6]
  | .bleu rA rB imm16 => [iWord rB rA imm16 0x2E#6]

/-- The bytes of an instruction as memory holds them, lowest address first. -/
def encodeBytes (i : Instr) : List Byte := (encode i).flatMap bytesOf

/-- The machine instructions the assembler emits for an instruction: itself, or the expansion of a
pseudo-instruction (30_encoding.md R120). -/
def expansion : Instr → List Instr
  | .ldbu rB imm16 rA => [.ldbu rB imm16 rA]
  | .addi rB rA imm16 => [.addi rB rA imm16]
  | .stb rB imm16 rA => [.stb rB imm16 rA]
  | .br imm16 => [.br imm16]
  | .ldb rB imm16 rA => [.ldb rB imm16 rA]
  | .cmpgei rB rA imm16 => [.cmpgei rB rA imm16]
  | .ldhu rB imm16 rA => [.ldhu rB imm16 rA]
  | .andi rB rA imm16 => [.andi rB rA imm16]
  | .sth rB imm16 rA => [.sth rB imm16 rA]
  | .bge rA rB imm16 => [.bge rA rB imm16]
  | .ldh rB imm16 rA => [.ldh rB imm16 rA]
  | .cmplti rB rA imm16 => [.cmplti rB rA imm16]
  | .ori rB rA imm16 => [.ori rB rA imm16]
  | .stw rB imm16 rA => [.stw rB imm16 rA]
  | .blt rA rB imm16 => [.blt rA rB imm16]
  | .ldw rB imm16 rA => [.ldw rB imm16 rA]
  | .cmpnei rB rA imm16 => [.cmpnei rB rA imm16]
  | .xori rB rA imm16 => [.xori rB rA imm16]
  | .bne rA rB imm16 => [.bne rA rB imm16]
  | .cmpeqi rB rA imm16 => [.cmpeqi rB rA imm16]
  | .ldbuio rB imm16 rA => [.ldbuio rB imm16 rA]
  | .muli rB rA imm16 => [.muli rB rA imm16]
  | .stbio rB imm16 rA => [.stbio rB imm16 rA]
  | .beq rA rB imm16 => [.beq rA rB imm16]
  | .ldbio rB imm16 rA => [.ldbio rB imm16 rA]
  | .cmpgeui rB rA imm16 => [.cmpgeui rB rA imm16]
  | .ldhuio rB imm16 rA => [.ldhuio rB imm16 rA]
  | .andhi rB rA imm16 => [.andhi rB rA imm16]
  | .sthio rB imm16 rA => [.sthio rB imm16 rA]
  | .bgeu rA rB imm16 => [.bgeu rA rB imm16]
  | .ldhio rB imm16 rA => [.ldhio rB imm16 rA]
  | .cmpltui rB rA imm16 => [.cmpltui rB rA imm16]
  | .initd imm16 rA => [.initd imm16 rA]
  | .orhi rB rA imm16 => [.orhi rB rA imm16]
  | .stwio rB imm16 rA => [.stwio rB imm16 rA]
  | .bltu rA rB imm16 => [.bltu rA rB imm16]
  | .ldwio rB imm16 rA => [.ldwio rB imm16 rA]
  | .flushd imm16 rA => [.flushd imm16 rA]
  | .xorhi rB rA imm16 => [.xorhi rB rA imm16]
  | .call imm26 => [.call imm26]
  | .custom n xC xA xB => [.custom n xC xA xB]
  | .eret => [.eret]
  | .roli rC rA imm5 => [.roli rC rA imm5]
  | .rol rC rA rB => [.rol rC rA rB]
  | .flushp => [.flushp]
  | .ret => [.ret]
  | .nor rC rA rB => [.nor rC rA rB]
  | .mulxuu rC rA rB => [.mulxuu rC rA rB]
  | .cmpge rC rA rB => [.cmpge rC rA rB]
  | .bret fieldC => [.bret fieldC]
  | .ror rC rA rB => [.ror rC rA rB]
  | .flushi rA => [.flushi rA]
  | .jmp rA => [.jmp rA]
  | .and rC rA rB => [.and rC rA rB]
  | .cmplt rC rA rB => [.cmplt rC rA rB]
  | .slli rC rA imm5 => [.slli rC rA imm5]
  | .sll rC rA rB => [.sll rC rA rB]
  | .or rC rA rB => [.or rC rA rB]
  | .mulxsu rC rA rB => [.mulxsu rC rA rB]
  | .cmpne rC rA rB => [.cmpne rC rA rB]
  | .srli rC rA imm5 => [.srli rC rA imm5]
  | .srl rC rA rB => [.srl rC rA rB]
  | .callr rA => [.callr rA]
  | .xor rC rA rB => [.xor rC rA rB]
  | .mulxss rC rA rB => [.mulxss rC rA rB]
  | .cmpeq rC rA rB => [.cmpeq rC rA rB]
  | .divu rC rA rB => [.divu rC rA rB]
  | .div rC rA rB => [.div rC rA rB]
  | .rdctl rC n => [.rdctl rC n]
  | .mul rC rA rB => [.mul rC rA rB]
  | .cmpgeu rC rA rB => [.cmpgeu rC rA rB]
  | .initi rA => [.initi rA]
  | .trap => [.trap]
  | .wrctl n rA => [.wrctl n rA]
  | .cmpltu rC rA rB => [.cmpltu rC rA rB]
  | .add rC rA rB => [.add rC rA rB]
  | .brk imm5 => [.brk imm5]
  | .sync => [.sync]
  | .sub rC rA rB => [.sub rC rA rB]
  | .srai rC rA imm5 => [.srai rC rA imm5]
  | .sra rC rA rB => [.sra rC rA rB]
  | .mov rC rA => [.add rC rA 0]
  | .movhi rB imm16 => [.orhi rB 0 imm16]
  | .movi rB imm16 => [.addi rB 0 imm16]
  | .movui rB imm16 => [.ori rB 0 imm16]
  | .movia rB label => [.orhi rB 0 (hiadj label), .addi rB rB (lo label)]
  | .nop => [.add 0 0 0]
  | .subi rB rA imm => [.addi rB rA (BitVec.ofInt 16 (-imm))]
  | .cmpgt rC rA rB => [.cmplt rC rB rA]
  | .cmpgtu rC rA rB => [.cmpltu rC rB rA]
  | .cmple rC rA rB => [.cmpge rC rB rA]
  | .cmpleu rC rA rB => [.cmpgeu rC rB rA]
  | .cmpgti rB rA imm16 => [.cmpgei rB rA (imm16 + 1)]
  | .cmpgtui rB rA imm16 => [.cmpgeui rB rA (imm16 + 1)]
  | .cmplei rB rA imm16 => [.cmplti rB rA (imm16 + 1)]
  | .cmpleui rB rA imm16 => [.cmpltui rB rA (imm16 + 1)]
  | .bgt rA rB imm16 => [.blt rB rA imm16]
  | .bgtu rA rB imm16 => [.bltu rB rA imm16]
  | .ble rA rB imm16 => [.bge rB rA imm16]
  | .bleu rA rB imm16 => [.bgeu rB rA imm16]

/-- Whether an instruction has a word of its own, so that a decoder can yield it: all but the nineteen
pseudo-instructions (30_encoding.md R120). -/
def Instr.isMachine : Instr → Bool
  | .ldbu _ _ _ | .addi _ _ _ | .stb _ _ _ | .br _ | .ldb _ _ _ | .cmpgei _ _ _ | .ldhu _ _ _ | .andi _ _ _ |
    .sth _ _ _ | .bge _ _ _ | .ldh _ _ _ | .cmplti _ _ _ | .ori _ _ _ | .stw _ _ _ | .blt _ _ _ | .ldw _ _ _ |
    .cmpnei _ _ _ | .xori _ _ _ | .bne _ _ _ | .cmpeqi _ _ _ | .ldbuio _ _ _ | .muli _ _ _ | .stbio _ _ _ |
    .beq _ _ _ | .ldbio _ _ _ | .cmpgeui _ _ _ | .ldhuio _ _ _ | .andhi _ _ _ | .sthio _ _ _ | .bgeu _ _ _ |
    .ldhio _ _ _ | .cmpltui _ _ _ | .initd _ _ | .orhi _ _ _ | .stwio _ _ _ | .bltu _ _ _ | .ldwio _ _ _ |
    .flushd _ _ | .xorhi _ _ _ | .call _ | .custom _ _ _ _ | .eret | .roli _ _ _ | .rol _ _ _ | .flushp |
    .ret | .nor _ _ _ | .mulxuu _ _ _ | .cmpge _ _ _ | .bret _ | .ror _ _ _ | .flushi _ | .jmp _ |
    .and _ _ _ | .cmplt _ _ _ | .slli _ _ _ | .sll _ _ _ | .or _ _ _ | .mulxsu _ _ _ | .cmpne _ _ _ |
    .srli _ _ _ | .srl _ _ _ | .callr _ | .xor _ _ _ | .mulxss _ _ _ | .cmpeq _ _ _ | .divu _ _ _ |
    .div _ _ _ | .rdctl _ _ | .mul _ _ _ | .cmpgeu _ _ _ | .initi _ | .trap | .wrctl _ _ | .cmpltu _ _ _ |
    .add _ _ _ | .brk _ | .sync | .sub _ _ _ | .srai _ _ _ | .sra _ _ _ =>
    true
  | .mov _ _ | .movhi _ _ | .movi _ _ | .movui _ _ | .movia _ _ | .nop | .subi _ _ _ | .cmpgt _ _ _ |
    .cmpgtu _ _ _ | .cmple _ _ _ | .cmpleu _ _ _ | .cmpgti _ _ _ | .cmpgtui _ _ _ | .cmplei _ _ _ |
    .cmpleui _ _ _ | .bgt _ _ _ | .bgtu _ _ _ | .ble _ _ _ | .bleu _ _ _ =>
    false

end Sys2Proof
end

