-- ==== Sys2Proof/Config.lean ====
section
/-! DEFINITION. What system generation fixes (00_scope.md R5), as one plain structure that State
carries unchanged, so that a claim about every state is a claim about every configuration; and the
free values, uninterpreted constants without a body, for what the spec leaves to `draw`, to a
peripheral or to the design of the custom logic. -/

namespace Sys2Proof

/-- What stands in a region of the address space (20_memory.md R62, 92 D4). -/
inductive RegionKind where
  /-- Plain memory: idempotent, its bytes are state (20_memory.md R75). -/
  | memory
  /-- A peripheral: its answers and its own state are not described by the spec (20_memory.md R70, R75). -/
  | peripheral
deriving DecidableEq, Repr

/-- One region of `MEM_MAP`: the `size` byte addresses from `base` up (00_scope.md R5, 20_memory.md R62). -/
structure Region where
  base : Word
  size : Nat
  kind : RegionKind
deriving DecidableEq, Repr

/-- Which of the seven potentially unimplemented instructions the core lacks: the parameter
`UNIMPLEMENTED`, any subset of the seven (47_custom_nop_unimplemented.md R272, 92 D8). -/
structure Unimplemented where
  mul : Bool := false
  muli : Bool := false
  mulxss : Bool := false
  mulxsu : Bool := false
  mulxuu : Bool := false
  div : Bool := false
  divu : Bool := false
deriving DecidableEq, Repr

/-- The parameter `INVALID_INSN`: what the core does with an invalid instruction word
(30_encoding.md R112; 93 U3, which names the three and makes `fault` the default; DESIGN CHOICE for what
the other two do, log entry 12). -/
inductive InvalidPolicy where
  /-- The result is undefined: the step has no successor state. -/
  | fault
  /-- A core known to treat an invalid word as a no-operation. -/
  | nop
  /-- A core known to take an exception, by the common entry (60_exceptions.md R290). -/
  | trap
deriving DecidableEq, Repr

/-- The implementation parameters of 00_scope.md R5. The three hardware addresses are word
addresses, so that each is a multiple of 4 by construction (92 D3, 20_memory.md R67). -/
structure Config where
  /-- `RESET_ADDR` divided by 4. -/
  resetWord : BitVec 30
  /-- `EXCEPTION_ADDR` divided by 4. -/
  exceptionWord : BitVec 30
  /-- `BREAK_ADDR` divided by 4. -/
  breakWord : BitVec 30
  /-- `CPUID_VALUE`. -/
  cpuid : Word
  /-- `HAS_USER_MODE`. -/
  hasUserMode : Bool
  /-- `UNIMPLEMENTED`. -/
  unimplemented : Unimplemented
  /-- `ADDR_WIDTH`, at most 32. -/
  addrWidth : Nat
  /-- `MEM_MAP`: the first region that holds an address says what stands there. -/
  memMap : List Region
  /-- `HAS_ICACHE`: `none` is a core without an instruction cache; `some k` one with lines of
  `2^k` words (the size itself is an implementation value, 91 N23). -/
  icacheLine : Option Nat
  /-- `HAS_DCACHE`, in the same form. -/
  dcacheLine : Option Nat
  /-- `BIT31_BYPASS` (20_memory.md R82). -/
  bit31Bypass : Bool
  /-- `HAS_JTAG_DEBUG`: whether a hardware break can be demanded (60_exceptions.md R312). -/
  hasJtagDebug : Bool
  /-- The numbers `N` for which `CUSTOM` has an entry (47_custom_nop_unimplemented.md R270). -/
  customPresent : List Byte
  /-- `INVALID_INSN`. -/
  invalidInsn : InvalidPolicy
deriving DecidableEq, Repr

/-- What the custom logic holds (10_state.md R46, 30_encoding.md R105): its own register file
`c0` to `c31`, and whatever else the design keeps, as one number. -/
structure CustomLogic where
  regs : Vector Word 32
  inner : Nat
deriving DecidableEq, Repr, Inhabited

/-- What a custom instruction hands to its logic (47_custom_nop_unimplemented.md R270): the number
`N`, the operand values, the three operands as the word names them, and the logic's state. -/
structure CustomCall where
  n : Byte
  a : Word
  b : Word
  xA : XReg
  xB : XReg
  xC : XReg
  logic : CustomLogic
deriving DecidableEq, Repr

/-- FREE VALUE. The `n`-th value of which the spec says nothing: `draw(32)` of 00_scope.md R7, and
what a peripheral answers (20_memory.md R70; log entries 7 and 10). It has no body: nothing can be proved of its value. -/
opaque Config.freeWord : Nat → Word

/-- FREE VALUE. `CUSTOM[N](a, b, A, B, C, logic state)`, the function the design gives custom
instruction `N` (47_custom_nop_unimplemented.md R270; 93 U7; log entry 13): the result and the logic's next state. -/
opaque Config.customFunction : CustomCall → Word × CustomLogic

/-- The configuration of `State.reset`: the parameter values of 95_test_vectors.md's conventions,
with the whole 32-bit address space mapped as memory (log entries 1 and 2; DESIGN CHOICE). -/
def Config.reference : Config where
  resetWord := 0x0#30
  exceptionWord := 0x8#30
  breakWord := 0x200#30
  cpuid := 0#32
  hasUserMode := true
  unimplemented := {}
  addrWidth := 32
  memMap := [{ base := 0#32, size := 2 ^ 32, kind := .memory }]
  icacheLine := none
  dcacheLine := none
  bit31Bypass := false
  hasJtagDebug := false
  customPresent := []
  invalidInsn := .fault

end Sys2Proof
end

