-- ==== Sys2Proof/Machine/State.lean ====
section
/-! DEFINITION. The state of the machine as plain data (10_state.md R20 to R51), the reasons a step
can stop, and the state after reset (70_reset_and_hazards.md R330, R331). INVENTORY.md lists every
field with the rule that names it. -/

namespace Sys2Proof.Machine

/-- The two stored bits of `status`, `estatus` and `bstatus`: `PIE` (bit 0) and `U` (bit 1), under
the names `EPIE`, `EU` and `BPIE`, `BU` in the copies (10_state.md R31, R32, R33, R37; 92 D9). -/
structure StatusBits where
  pie : Bool
  u : Bool
deriving DecidableEq, Repr

/-- The width of one data access (20_memory.md R63, R74). -/
inductive AccessWidth where
  | byte
  | half
  | word
deriving DecidableEq, Repr

/-- One bus transfer of an io load or store (20_memory.md R72): the address on the bus and the value
moved, zero-extended. -/
structure IoTransfer where
  write : Bool
  addr : Word
  width : AccessWidth
  value : Word
deriving DecidableEq, Repr

/-- A word of memory this processor stored to and has not yet passed through the sequence
`flushd`, `flushi`, `flushp` (20_memory.md R88, R89; log entry 8). -/
structure StoredWord where
  /-- The word's address, a multiple of 4. -/
  addr : Word
  /-- No newer copy is held in the data cache: memory holds the word (step `flushd`). -/
  writtenBack : Bool
  /-- The instruction cache does not hold the old word (step `flushi`). -/
  invalidated : Bool
deriving DecidableEq, Repr

/-- A byte of memory this processor has accessed since the last `flushd` or `initd` of its line, on a
core with a data cache (20_memory.md R77, 92 D35; log entry 26). -/
structure ViewedByte where
  /-- The byte's address on the bus. -/
  addr : Word
  /-- It was accessed past the data cache: by an io form or by bit 31 (20_memory.md R72, R82). -/
  io : Bool
deriving DecidableEq, Repr

/-- One change a debug tool makes through the JTAG debug module (60_exceptions.md R312, log entry 14);
changes of memory are `Boundary.writes`. `U` stays 0 in debug mode (10_state.md R41) and `pc` a multiple of 4
(10_state.md R27). -/
inductive DebugEdit where
  | gpr (r : Reg) (v : Word)
  | pcWord (a : BitVec 30)
  | pie (b : Bool)
  | estatus (b : StatusBits)
  | bstatus (b : StatusBits)
  | ienable (v : Word)
  | custom (l : CustomLogic)
deriving DecidableEq, Repr

/-- What the environment does at one instruction boundary (00_scope.md R8, 60_exceptions.md R320; log
entries 6 and 18). -/
structure Boundary where
  /-- The levels of the 32 interrupt request inputs from here on (10_state.md R35, 92 D31). -/
  irq : Word
  /-- Whether an interrupt whose condition holds is taken at this boundary (60_exceptions.md R301, 92 D11). -/
  accept : Bool
  /-- Whether the JTAG debug module asserts a hardware break (60_exceptions.md R312). -/
  hwBreak : Bool
  /-- The bytes other bus masters write to memory before this step (20_memory.md R87, 92 D28). -/
  writes : List (Word × Byte)
  /-- What a debug tool changes before this step, if the processor is in debug mode (60_exceptions.md R312). -/
  edits : List DebugEdit
deriving DecidableEq, Repr

/-- Memory: the bytes that differ from what an unlisted address reads as, by strictly rising address
(20_memory.md R51, R60). -/
abbrev Memory := List Host.Cell

/-- The state. -/
structure State where
  /-- What system generation fixed (00_scope.md R5); no step changes it. -/
  cfg : Config
  /-- The program counter: the address of the instruction being executed (10_state.md R25). -/
  pc : Word
  /-- `r1` to `r31`, `r<i>` at index `i - 1`; `r0` is not storage (10_state.md R20, R21). -/
  gpr : Vector Word 31
  /-- `ctl0` (10_state.md R31). -/
  status : StatusBits
  /-- `ctl1` (10_state.md R32). -/
  estatus : StatusBits
  /-- `ctl2` (10_state.md R33). -/
  bstatus : StatusBits
  /-- `ctl3` (10_state.md R34). -/
  ienable : Word
  /-- Whether the processor is in debug mode (10_state.md R40, R41; 92 D21). -/
  inDebug : Bool
  /-- Memory (10_state.md R51, 20_memory.md R60). -/
  mem : Memory
  /-- The levels of `irq0` to `irq31` now (10_state.md R35, R40). -/
  irq : Word
  /-- The state of the custom-instruction logic (10_state.md R40, R46). -/
  custom : CustomLogic
  /-- The words stored to and not yet fit to be fetched (20_memory.md R88, R89); the carrier of what
  10_state.md R40 names the caches, the write buffer and the prefetched instructions. -/
  stored : List StoredWord
  /-- The bytes accessed through the data cache and past it (20_memory.md R77); like `stored`, a carrier of
  what 10_state.md R40 names the data cache. -/
  views : List ViewedByte
  /-- The bus transfers of the io instructions, the latest first (20_memory.md R72, R76). -/
  ioLog : List IoTransfer
  /-- The environment's next boundaries, the next one first (00_scope.md R8). -/
  inputs : List Boundary
  /-- The MODEL's own: how many free values have been drawn (00_scope.md R7, `draw`). -/
  draws : Nat
deriving DecidableEq, Repr

/-- Why a step faults. -/
inductive Fault where
  /-- An instruction fetch, load or store of an address mapped to neither memory nor a peripheral
  (20_memory.md R62, 93 U2); raised by `State.load`, `State.store`, `State.fetch`. Safe. -/
  | unmappedAddress (addr : Word)
  /-- An invalid instruction word on a core whose policy is `fault` (30_encoding.md R112, 93 U3);
  raised by `State.invalidWord`. Safe. -/
  | invalidInstruction (word : Word)
deriving DecidableEq, Repr

/-- Why a step is refused. -/
inductive Refusal where
  /-- An instruction without a meaning yet; raised by `exec` alone. Safe. -/
  | notModelled (mnemonic : String)
  /-- A halfword or word access that is not naturally aligned (20_memory.md R66, 92 D2); raised by
  `State.load` and `State.store`. Safe. -/
  | misalignedData (addr : Word)
  /-- A load or store of a byte of memory that was accessed the other way, through the data cache or past
  it, since the last `flushd` or `initd` of its line (20_memory.md R77, 92 D35, 93 U24); raised by
  `State.load` and `State.store`. Safe. -/
  | mixedAccess (addr : Word)
  /-- A control transfer to, or a fetch at, an address that is no multiple of 4 (10_state.md R27,
  45_program_control.md R229, 92 D3); raised by `State.jump` and `State.fetch`. Safe. -/
  | misalignedPc (target : Word)
  /-- `wrctl ipending`, whose effect is undefined (10_state.md R35, 93 U1); raised by `State.writeCtl`. Safe. -/
  | writeToIpending
  /-- `rdctl` or `wrctl` of a control register 6 to 31 (10_state.md R37, 92 D10); raised by
  `State.readCtl` and `State.writeCtl`. Safe. -/
  | undefinedControlRegister (n : CtlNum)
  /-- `wrctl status` with bit 1 set on a core with user mode (46_other_control.md R255, 92 D16);
  raised by `State.writeCtl`. Safe. -/
  | wrctlSetsU
  /-- A `custom` whose `N` no logic implements (47_custom_nop_unimplemented.md R270, 93 U7); raised by
  `execCustom`. Safe. -/
  | customNotPresent (n : Byte)
  /-- A fetch of a word stored to since the last `flushd`, `flushi`, `flushp` sequence
  (20_memory.md R89, 93 U24); raised by `State.fetch`. Safe. -/
  | staleFetch (addr : Word)
deriving DecidableEq, Repr

/-- What a step or a meaning answers. -/
abbrev Result := Host.Outcome State Fault Refusal

/-- The machine right after reset on the core `cfg` (10_state.md R50, 70_reset_and_hazards.md R330):
`status`, `pc` and `in_debug` as the rules say, and every register and memory byte whose reset value
is undefined at the value of log entries 3 and 4. -/
def State.resetOn (cfg : Config) : State where
  cfg := cfg
  pc := cfg.resetWord ++ 0#2
  gpr := Vector.replicate 31 0#32
  status := { pie := false, u := false }
  estatus := { pie := false, u := false }
  bstatus := { pie := false, u := false }
  ienable := 0#32
  inDebug := false
  mem := []
  irq := 0#32
  custom := { regs := Vector.replicate 32 0#32, inner := 0 }
  stored := []
  views := []
  ioLog := []
  inputs := []
  draws := 0

/-- The machine right after reset, on the reference configuration. -/
def State.reset : State := State.resetOn Config.reference

end Sys2Proof.Machine
end

