-- ==== Sys2Proof/Machine/Ops.lean ====
section
/-! DEFINITION. The named operations of the machine over registers, memory, control registers and
the environment, taking an exception or a break and returning from one, and fetching an instruction.
Every meaning is written over these. -/

namespace Sys2Proof.Machine

/-! ### Outcomes -/

/-- What follows a computation that answered a value; its fault or refusal is the whole's. -/
def andThen {α β : Type} (o : Host.Outcome α Fault Refusal) (f : α → Host.Outcome β Fault Refusal) :
    Host.Outcome β Fault Refusal :=
  match o with
  | .next a => f a
  | .fault r => .fault r
  | .refused r => .refused r

/-! ### General-purpose registers and the program counter -/

/-- `x[i]`: `r0` always reads 0 (10_state.md R21). -/
def State.readReg (s : State) : Reg → Word
  | ⟨0, _⟩ => 0#32
  | ⟨k + 1, h⟩ => s.gpr[k]'(by omega)

/-- `x[i] <- v`: a write to `r0` has no effect (10_state.md R21). -/
def State.writeReg (s : State) (r : Reg) (v : Word) : State :=
  match r with
  | ⟨0, _⟩ => s
  | ⟨k + 1, h⟩ => { s with gpr := s.gpr.set k v (by omega) }

/-- `pc <- pc + 4`, modulo 2^32 (10_state.md R26, R27). -/
def State.advance (s : State) : State := { s with pc := s.pc + 4#32 }

/-- The end of an instruction that writes `v` to its destination and goes on at `pc + 4`
(00_scope.md R7, 10_state.md R21, R26). -/
def State.finish (s : State) (r : Reg) (v : Word) : Result := .next (s.writeReg r v).advance

/-- Whether an address is a multiple of 4 (10_state.md R27, 20_memory.md R67). -/
def wordAligned (a : Word) : Bool := a.extractLsb' 0 2 == 0#2

/-- `pc <- t`: a target that is no multiple of 4 is refused (10_state.md R27, 45_program_control.md R229). -/
def State.jump (s : State) (t : Word) : Result :=
  if wordAligned t then .next { s with pc := t } else .refused (.misalignedPc t)

/-! ### Control registers -/

/-- The address `EXCEPTION_ADDR` (60_exceptions.md R284). -/
def exceptionAddr (c : Config) : Word := c.exceptionWord ++ 0#2

/-- The address `BREAK_ADDR` (60_exceptions.md R284). -/
def breakAddr (c : Config) : Word := c.breakWord ++ 0#2

/-- The address `RESET_ADDR` (60_exceptions.md R284). -/
def resetAddr (c : Config) : Word := c.resetWord ++ 0#2

/-- The bits a status register of the core holds after a write of `b`: on a core without user mode
`U`, `EU` and `BU` are written as 0 (60_exceptions.md R288, 92 D27). -/
def statusFor (c : Config) (b : StatusBits) : StatusBits := { pie := b.pie, u := b.u && c.hasUserMode }

/-- The two stored bits a value written by `wrctl` carries: bits 31..2 are ignored (10_state.md R37). -/
def statusOfWord (v : Word) : StatusBits := { pie := v.getLsbD 0, u := v.getLsbD 1 }

/-- A status register as `rdctl` reads it: the reserved bits 31..2 are a free value (10_state.md R37, 92 D9). -/
def wordOfStatus (b : StatusBits) (free : Word) : Word :=
  free.extractLsb' 2 30 ++ BitVec.ofBool b.u ++ BitVec.ofBool b.pie

/-- `ipending`, a function of the inputs and `ienable`, not storage (10_state.md R35, 60_exceptions.md R300). -/
def State.ipending (s : State) : Word := s.irq &&& s.ienable

/-- The hardware interrupt condition (60_exceptions.md R300). -/
def State.interruptRequest (s : State) : Bool := s.status.pie && s.ipending != 0#32

/-- The state after one free value has been drawn (00_scope.md R7, `draw`). -/
def State.drawn (s : State) : State := { s with draws := s.draws + 1 }

/-- `ctl[n]` as `rdctl` reads it, and the state after the read (46_other_control.md R254, 10_state.md R31
to R37). -/
def State.readCtl (s : State) (n : CtlNum) : Host.Outcome (Word × State) Fault Refusal :=
  match n.val with
  | 0 => .next (wordOfStatus s.status (Config.freeWord s.draws), s.drawn)
  | 1 => .next (wordOfStatus s.estatus (Config.freeWord s.draws), s.drawn)
  | 2 => .next (wordOfStatus s.bstatus (Config.freeWord s.draws), s.drawn)
  | 3 => .next (s.ienable, s)
  | 4 => .next (s.ipending, s)
  | 5 => .next (s.cfg.cpuid, s)
  | _ => .refused (.undefinedControlRegister n)

/-- `ctl[n] <- v` as `wrctl` writes it (46_other_control.md R255). -/
def State.writeCtl (s : State) (n : CtlNum) (v : Word) : Result :=
  match n.val with
  | 0 =>
    if v.getLsbD 1 && s.cfg.hasUserMode then .refused .wrctlSetsU
    else .next { s with status := { pie := v.getLsbD 0, u := false } }
  | 1 => .next { s with estatus := statusFor s.cfg (statusOfWord v) }
  | 2 => .next { s with bstatus := statusFor s.cfg (statusOfWord v) }
  | 3 => .next { s with ienable := v }
  | 4 => .refused .writeToIpending
  | 5 => .next s
  | _ => .refused (.undefinedControlRegister n)

/-! ### Exceptions and breaks -/

/-- Taking an exception with return address `ret`, the five steps of 60_exceptions.md R290. -/
def State.exceptionEntry (s : State) (ret : Word) : State :=
  { ({ s with estatus := s.status, status := { pie := false, u := false } }).writeReg 29 ret with
    pc := exceptionAddr s.cfg }

/-- Taking a break with return address `ret`, the six steps of 60_exceptions.md R310. -/
def State.breakEntry (s : State) (ret : Word) : State :=
  { ({ s with bstatus := s.status, status := { pie := false, u := false } }).writeReg 30 ret with
    pc := breakAddr s.cfg
    inDebug := true }

/-- Return from an exception: `status <- estatus; pc <- ea` (46_other_control.md R251, 60_exceptions.md R297). -/
def State.exceptionReturn (s : State) : Result :=
  ({ s with status := statusFor s.cfg s.estatus }).jump (s.readReg 29)

/-- Return from a break: `status <- bstatus; pc <- ba; in_debug <- false` (46_other_control.md R253,
60_exceptions.md R313). -/
def State.breakReturn (s : State) : Result :=
  ({ s with status := statusFor s.cfg s.bstatus, inDebug := false }).jump (s.readReg 30)

/-- The privilege check: with `status.U = 1` the exception is taken instead of the body
(60_exceptions.md R304; 10_state.md R41 says that only `status.U` is tested). -/
def State.privileged (s : State) (body : Result) : Result :=
  if s.status.u then .next (s.exceptionEntry (s.pc + 4#32)) else body

/-- The unimplemented check: on a core that lacks the instruction the exception is taken instead of
the body (60_exceptions.md R303, 47_custom_nop_unimplemented.md R273). -/
def State.unlessAbsent (s : State) (absent : Bool) (body : Result) : Result :=
  if absent then .next (s.exceptionEntry (s.pc + 4#32)) else body

/-- An invalid instruction word, by the parameter `INVALID_INSN` (30_encoding.md R112, 93 U3). -/
def State.invalidWord (s : State) (w : Word) : Result :=
  match s.cfg.invalidInsn with
  | .fault => .fault (.invalidInstruction w)
  | .nop => .next s.advance
  | .trap => .next (s.exceptionEntry (s.pc + 4#32))

/-! ### The bytes of memory -/

/-- What a byte of memory that nothing has written reads as (log entry 4; DESIGN CHOICE). -/
def blankByte : Byte := 0#8

/-- The byte at an address. -/
def Memory.read : Memory → Word → Byte
  | [], _ => blankByte
  | (k, b) :: rest, a => if k = a.toNat then b else Memory.read rest a

/-- Writing one byte, keeping the canonical form: writing what an unlisted address reads as removes
the entry. -/
def Memory.write : Memory → Word → Byte → Memory
  | [], a, b => if b = blankByte then [] else [(a.toNat, b)]
  | (k, c) :: rest, a, b =>
    if k < a.toNat then (k, c) :: Memory.write rest a b
    else if k = a.toNat then (if b = blankByte then rest else (k, b) :: rest)
    else if b = blankByte then (k, c) :: rest
    else (a.toNat, b) :: (k, c) :: rest

/-- The canonical form: strictly rising 32-bit addresses, and no entry equal to what an unlisted
address reads as. -/
abbrev Memory.wf (m : Memory) : Prop :=
  (m.map Prod.fst).Pairwise (· < ·) ∧ ∀ c ∈ m, c.1 < 2 ^ 32 ∧ c.2 ≠ blankByte

/-! ### The address map -/

/-- Whether a region holds an address (20_memory.md R62). -/
def regionHolds (x : Region) (p : Word) : Bool :=
  decide (x.base.toNat ≤ p.toNat) && decide (p.toNat < x.base.toNat + x.size)

/-- The width of the implemented address space: `ADDR_WIDTH`, at most 31 under `BIT31_BYPASS`
(20_memory.md R61, R82). -/
def implementedWidth (c : Config) : Nat := if c.bit31Bypass then min c.addrWidth 31 else c.addrWidth

/-- What stands at an address of the bus: nothing outside the implemented width or outside every
region (20_memory.md R61, R62; 92 D25). -/
def kindAt (c : Config) (p : Word) : Option RegionKind :=
  if p.toNat < 2 ^ implementedWidth c then (c.memMap.find? (regionHolds · p)).map (·.kind) else none

/-- The byte a data access to `a` reaches: `a[30:0]` under `BIT31_BYPASS` (20_memory.md R82). -/
def dataAddr (c : Config) (a : Word) : Word := if c.bit31Bypass then a &&& 0x7FFFFFFF#32 else a

/-- Whether a data access to `a` bypasses the cache by its bit 31, and so behaves as its io form
(20_memory.md R82). -/
def bypasses (c : Config) (a : Word) : Bool := c.bit31Bypass && a.getLsbD 31

/-- How many bytes an access moves (20_memory.md R63). -/
def AccessWidth.bytes : AccessWidth → Nat
  | .byte => 1
  | .half => 2
  | .word => 4

/-- Natural alignment (20_memory.md R66). -/
def aligned (a : Word) : AccessWidth → Bool
  | .byte => true
  | .half => a.extractLsb' 0 1 == 0#1
  | .word => wordAligned a

/-- What stands at each byte of an access. -/
def kindsAt (c : Config) (p : Word) (width : AccessWidth) : List (Option RegionKind) :=
  (List.range width.bytes).map fun i => kindAt c (p + BitVec.ofNat 32 i)

/-- Whether every byte of an access is mapped (20_memory.md R70, R71). -/
def mapped (c : Config) (p : Word) (width : AccessWidth) : Bool := (kindsAt c p width).all (·.isSome)

/-- Whether an access reaches a peripheral (20_memory.md R70, R75). -/
def touchesPeripheral (c : Config) (p : Word) (width : AccessWidth) : Bool :=
  (kindsAt c p width).contains (some .peripheral)

/-! ### The two ways to memory: through the data cache and past it (20_memory.md R77, 92 D35) -/

/-- The bytes of memory that an access reaches, with the way it takes. -/
def viewedBytes (c : Config) (io : Bool) (p : Word) (width : AccessWidth) : List ViewedByte :=
  (((List.range width.bytes).map fun i => p + BitVec.ofNat 32 i).filter (kindAt c · == some .memory)).map
    fun a => { addr := a, io := io }

/-- Whether an access mixes the two ways: on a core with a data cache, a byte of memory it reaches was
accessed the other way since the last `flushd` or `initd` of its line (20_memory.md R77). -/
def State.mixes (s : State) (io : Bool) (p : Word) (width : AccessWidth) : Bool :=
  s.cfg.dcacheLine.isSome && (viewedBytes s.cfg (!io) p width).any s.views.contains

/-- The record of the way an access takes. -/
def State.viewed (s : State) (io : Bool) (p : Word) (width : AccessWidth) : State :=
  { s with
    views := (if s.cfg.dcacheLine.isSome then (viewedBytes s.cfg io p width).filter (!s.views.contains ·) else []) ++
      s.views }

/-! ### Loads -/

/-- The byte a load of the bus address `p` gets at offset `i`: memory's, or whatever a peripheral
answers, a free value (20_memory.md R70). -/
def State.loadByte (s : State) (p : Word) (i : Nat) : Byte :=
  match kindAt s.cfg (p + BitVec.ofNat 32 i) with
  | some .memory => s.mem.read (p + BitVec.ofNat 32 i)
  | _ => byteOf (Config.freeWord s.draws) i

/-- The value a load of the bus address `p` gets, zero-extended; little-endian (20_memory.md R64, R70). -/
def State.loadValue (s : State) (p : Word) : AccessWidth → Word
  | .byte => (s.loadByte p 0).setWidth 32
  | .half => (s.loadByte p 1 ++ s.loadByte p 0).setWidth 32
  | .word => wordOfBytes (s.loadByte p 0) (s.loadByte p 1) (s.loadByte p 2) (s.loadByte p 3)

/-- The free value an access to a peripheral draws. -/
def State.afterAccess (s : State) (p : Word) (width : AccessWidth) : State :=
  { s with draws := s.draws + (if touchesPeripheral s.cfg p width then 1 else 0) }

/-- The bus transfer an io access makes: exactly one, in instruction order (20_memory.md R72). -/
def State.logged (s : State) (io : Bool) (t : IoTransfer) : State :=
  { s with ioLog := if io then t :: s.ioLog else s.ioLog }

/-- The state after a load that answers (20_memory.md R70, R72). -/
def State.afterLoad (s : State) (io : Bool) (addr : Word) (width : AccessWidth) : State :=
  ((s.afterAccess (dataAddr s.cfg addr) width).viewed (io || bypasses s.cfg addr) (dataAddr s.cfg addr) width).logged
    (io || bypasses s.cfg addr)
    { write := false, addr := dataAddr s.cfg addr, width := width, value := s.loadValue (dataAddr s.cfg addr) width }

/-- `MemRead(addr, n)` and, with `io`, `MemReadIO(addr, n)` (20_memory.md R70, R72): the value,
zero-extended, and the state after the read; an access that mixes the two ways is refused (R77). -/
def State.load (s : State) (io : Bool) (addr : Word) (width : AccessWidth) :
    Host.Outcome (Word × State) Fault Refusal :=
  if !aligned addr width then .refused (.misalignedData addr)
  else if !mapped s.cfg (dataAddr s.cfg addr) width then .fault (.unmappedAddress addr)
  else if s.mixes (io || bypasses s.cfg addr) (dataAddr s.cfg addr) width then .refused (.mixedAccess addr)
  else .next (s.loadValue (dataAddr s.cfg addr) width, s.afterLoad io addr width)

/-! ### Stores, and the words not yet fit to be fetched -/

/-- Storing one byte at a bus address: a peripheral keeps nothing the spec describes (20_memory.md R71, R75). -/
def storeByte (c : Config) (m : Memory) (p : Word) (b : Byte) : Memory :=
  match kindAt c p with
  | some .memory => m.write p b
  | _ => m

/-- Storing the low bytes of a value, little-endian (20_memory.md R64, R71). -/
def storeValue (c : Config) (m : Memory) (p : Word) (v : Word) : AccessWidth → Memory
  | .byte => storeByte c m p (byteOf v 0)
  | .half => storeByte c (storeByte c m p (byteOf v 0)) (p + 1#32) (byteOf v 1)
  | .word =>
    storeByte c (storeByte c (storeByte c (storeByte c m p (byteOf v 0)) (p + 1#32) (byteOf v 1))
      (p + 2#32) (byteOf v 2)) (p + 3#32) (byteOf v 3)

/-- The address of the word that holds a byte. -/
def wordOf (p : Word) : Word := p &&& 0xFFFFFFFC#32

/-- The record of a store to the word of `p`: it must pass through `flushd` if a data cache may hold the
word, which it does not after an io store with no earlier store of the word still held; through `flushi` if
an instruction cache may hold the old word; and through `flushp` in any case (20_memory.md R88, R89). -/
def State.noteStore (s : State) (io : Bool) (p : Word) : State :=
  { s with
    stored := { addr := wordOf p,
                writtenBack := s.cfg.dcacheLine.isNone ||
                  (io && s.stored.all fun e => e.addr != wordOf p || e.writtenBack),
                invalidated := s.cfg.icacheLine.isNone } :: s.stored.filter (·.addr != wordOf p) }

/-- The state after a store that answers (20_memory.md R71, R72). -/
def State.afterStore (s : State) (io : Bool) (addr : Word) (width : AccessWidth) (v : Word) : State :=
  ((({ s with mem := storeValue s.cfg s.mem (dataAddr s.cfg addr) v width }).noteStore
    (io || bypasses s.cfg addr) (dataAddr s.cfg addr)).viewed (io || bypasses s.cfg addr) (dataAddr s.cfg addr)
    width).logged (io || bypasses s.cfg addr)
      { write := true, addr := dataAddr s.cfg addr, width := width,
        value := (v.setWidth (8 * width.bytes)).setWidth 32 }

/-- `MemWrite(addr, n, v)` and, with `io`, `MemWriteIO(addr, n, v)` (20_memory.md R71, R72); an access that
mixes the two ways is refused (R77). -/
def State.store (s : State) (io : Bool) (addr : Word) (width : AccessWidth) (v : Word) : Result :=
  if !aligned addr width then .refused (.misalignedData addr)
  else if !mapped s.cfg (dataAddr s.cfg addr) width then .fault (.unmappedAddress addr)
  else if s.mixes (io || bypasses s.cfg addr) (dataAddr s.cfg addr) width then .refused (.mixedAccess addr)
  else .next (s.afterStore io addr width v)

/-! ### Cache management and the pipeline (46_other_control.md R256 to R263)

Neither cache is state (20_memory.md R86, 92 D18); what these instructions do is to make stored words
fit to be fetched (20_memory.md R89), and, for the data cache, to end the record of the way bytes were
accessed (R77). -/

/-- Whether two addresses lie in one cache line of `2^k` words. DESIGN CHOICE (log entry 25): the whole line
address is compared, where 46_other_control.md R257 selects a line by its index bits alone and 93 G17 claims
neither, so a flush at an address that shares the index bits only leaves a word's record as it was. -/
def sameLine (k : Nat) (a b : Word) : Bool := a >>> (k + 2) == b >>> (k + 2)

/-- A stored word whose data cache line, if it lies in the line of `p`, has been written back. -/
def StoredWord.afterDataFlush (k : Nat) (p : Word) (e : StoredWord) : StoredWord :=
  if sameLine k e.addr p then { e with writtenBack := true } else e

/-- A stored word whose instruction cache line, if it lies in the line of `p`, has been invalidated;
a word that memory does not hold yet could come back stale, so only a written-back word profits. -/
def StoredWord.afterInstructionFlush (k : Nat) (p : Word) (e : StoredWord) : StoredWord :=
  if sameLine k e.addr p && e.writtenBack then { e with invalidated := true } else e

/-- The data cache line of `p` written back and invalidated (46_other_control.md R257). -/
def State.flushDataLine (s : State) (p : Word) : State :=
  match s.cfg.dcacheLine with
  | none => s
  | some k =>
    { s with stored := s.stored.map (StoredWord.afterDataFlush k p), views := s.views.filter (!sameLine k ·.addr p) }

/-- The data cache line of `p` invalidated without being written back (46_other_control.md R258); the data
such a line may lose is not shown (log entry 8). -/
def State.invalidateDataLine (s : State) (p : Word) : State :=
  match s.cfg.dcacheLine with
  | none => s
  | some k => { s with views := s.views.filter (!sameLine k ·.addr p) }

/-- The instruction cache line of `p` invalidated (46_other_control.md R259, R260; 20_memory.md R89). -/
def State.invalidateInstructionLine (s : State) (p : Word) : State :=
  match s.cfg.icacheLine with
  | none => s
  | some k => { s with stored := s.stored.map (StoredWord.afterInstructionFlush k p) }

/-- Every prefetched instruction discarded (46_other_control.md R262): the words that memory holds and
no instruction cache line contradicts are fetched anew. -/
def State.flushPipeline (s : State) : State :=
  { s with stored := s.stored.filter fun e => !(e.writtenBack && e.invalidated) }

/-! ### The custom logic (47_custom_nop_unimplemented.md R270) -/

/-- The value of a source operand of `custom`. -/
def State.customOperand (s : State) : XReg → Word
  | .r i => s.readReg i
  | .c i => s.custom.regs[i]

/-- What `CUSTOM[N]` gives for these operands: the result and the logic's next state. -/
def State.customCall (s : State) (n : Byte) (xC xA xB : XReg) : Word × CustomLogic :=
  Config.customFunction
    { n := n, a := s.customOperand xA, b := s.customOperand xB, xA := xA, xB := xB, xC := xC, logic := s.custom }

/-- The logic's next state and the result in the destination, a general-purpose or a custom register. -/
def State.customWrite (s : State) (xC : XReg) (out : Word × CustomLogic) : State :=
  match xC with
  | .r i => ({ s with custom := out.2 }).writeReg i out.1
  | .c i => { s with custom := { out.2 with regs := out.2.regs.set i out.1 } }

/-! ### The environment and the fetch (00_scope.md R8) -/

/-- What the environment does at the coming boundary. Where nothing is listed the inputs keep their
levels, no break is demanded, and an interrupt whose condition holds is taken (log entry 6). -/
def State.boundary (s : State) : Boundary :=
  s.inputs.headD { irq := s.irq, accept := true, hwBreak := false, writes := [], edits := [] }

/-- Other bus masters' writes reach memory regions only (20_memory.md R87). -/
def externalWrites (c : Config) (m : Memory) : List (Word × Byte) → Memory
  | [] => m
  | (a, b) :: rest => externalWrites c (storeByte c m a b) rest

/-- One change of a debug tool (60_exceptions.md R312). -/
def State.edit (s : State) : DebugEdit → State
  | .gpr r v => s.writeReg r v
  | .pcWord a => { s with pc := a ++ 0#2 }
  | .pie b => { s with status := { pie := b, u := s.status.u } }
  | .estatus b => { s with estatus := statusFor s.cfg b }
  | .bstatus b => { s with bstatus := statusFor s.cfg b }
  | .ienable v => { s with ienable := v }
  | .custom l => { s with custom := l }

/-- A debug tool's changes: only in debug mode, and only with the JTAG debug module (60_exceptions.md R312). -/
def State.edited (s : State) (edits : List DebugEdit) : State :=
  if s.cfg.hasJtagDebug && s.inDebug then edits.foldl State.edit s else s

/-- The state at the boundary: the inputs sampled, other masters' writes and a debug tool's changes made. -/
def State.sampled (s : State) : State :=
  ({ s with irq := s.boundary.irq, mem := externalWrites s.cfg s.mem s.boundary.writes,
            inputs := s.inputs.tail }).edited s.boundary.edits

/-- Whether a hardware break is demanded at the coming boundary (60_exceptions.md R312). -/
def State.breakDemanded (s : State) : Bool := s.cfg.hasJtagDebug && s.boundary.hwBreak

/-- Whether a hardware interrupt is taken at the coming boundary (60_exceptions.md R301). -/
def State.interruptTaken (s : State) : Bool := s.sampled.interruptRequest && s.boundary.accept

/-- `Fetch(pc)` (20_memory.md R73): the instruction word and the state after the fetch; a word stored
to since the last `flushd`, `flushi`, `flushp` is refused (20_memory.md R89). -/
def State.fetch (s : State) : Host.Outcome (Word × State) Fault Refusal :=
  if !wordAligned s.pc then .refused (.misalignedPc s.pc)
  else if !mapped s.cfg s.pc .word then .fault (.unmappedAddress s.pc)
  else if s.stored.any (·.addr == s.pc) then .refused (.staleFetch s.pc)
  else .next (s.loadValue s.pc .word, s.afterAccess s.pc .word)

/-- The four bytes of `w` placed in memory at `pc`, fit to be fetched, and a coming boundary at which
nothing happens, so that the next step runs `w` (log entry 5). -/
def State.placeWord (s : State) (w : Word) : State :=
  { s with
    mem := storeValue s.cfg s.mem s.pc w .word
    stored := s.stored.filter (·.addr != s.pc)
    inputs := { irq := s.irq, accept := false, hwBreak := false, writes := [], edits := [] } :: s.inputs }

/-- The opcode-table word `w` of `nbits` bits placed likewise. -/
def State.placeTableWord (s : State) (nbits w : Nat) : State := s.placeWord (BitVec.ofNat 32 (w % 2 ^ nbits))

/-! ### The step (00_scope.md R8) -/

/-- Steps 3 to 7 of 00_scope.md R8 for the meanings `run`: fetch, decode, execute (the checks of
steps 5 and 6 are part of each instruction's meaning). -/
def State.runFetched (run : Instr → State → Result) (s : State) : Result :=
  andThen s.fetch fun r =>
    match decodeWord r.1 with
    | .ok i => run i r.2
    | .error _ => r.2.invalidWord r.1

/-- One step: a hardware break, else a hardware interrupt, else the instruction at `pc`
(00_scope.md R8, 60_exceptions.md R294; 92 D12). -/
def State.stepWith (run : Instr → State → Result) (s : State) : Result :=
  if s.breakDemanded then .next (s.sampled.breakEntry (s.sampled.pc + 4#32))
  else if s.interruptTaken then .next (s.sampled.exceptionEntry (s.sampled.pc + 4#32))
  else s.sampled.runFetched run

end Sys2Proof.Machine
end

