-- ==== Sys2Proof/Machine/Operands.lean ====
section
/-! DEFINITION. How the fields of an instruction become operands (30_encoding.md R106): immediates,
effective addresses, targets, shift counts, and the extension of a loaded value. -/

namespace Sys2Proof.Machine

/-- `sext_32(IMM16)` (30_encoding.md R106). -/
def sextImm (imm : Half) : Word := imm.signExtend 32

/-- `zext_32(IMM16)` (30_encoding.md R106). -/
def zextImm (imm : Half) : Word := imm.setWidth 32

/-- `IMM16 :: 0x0000` (30_encoding.md R106). -/
def highImm (imm : Half) : Word := imm ++ 0#16

/-- The effective address of every load, store and data cache instruction (20_memory.md R68, R69). -/
def State.effectiveAddr (s : State) (rA : Reg) (imm : Half) : Word := s.readReg rA + sextImm imm

/-- The target of `br` and of a taken conditional branch (45_program_control.md R234). -/
def State.branchTarget (s : State) (imm : Half) : Word := s.pc + 4#32 + sextImm imm

/-- The target of `call` (45_program_control.md R230). -/
def State.callTarget (s : State) (imm26 : BitVec 26) : Word := s.pc.extractLsb' 28 4 ++ imm26 ++ 0#2

/-- The count of a shift or rotate by a register: its low five bits (44_shift_rotate.md R215). -/
def regCount (v : Word) : Nat := (v.extractLsb' 0 5).toNat

/-- The count of a shift or rotate by an immediate (44_shift_rotate.md R215). -/
def immCount (imm5 : BitVec 5) : Nat := imm5.toNat

/-- Sign extension of a loaded byte (40_data_transfer.md R135). -/
def signByte (v : Word) : Word := (v.setWidth 8).signExtend 32

/-- Zero extension of a loaded byte (40_data_transfer.md R136). -/
def zeroByte (v : Word) : Word := (v.setWidth 8).setWidth 32

/-- Sign extension of a loaded halfword (40_data_transfer.md R138). -/
def signHalf (v : Word) : Word := (v.setWidth 16).signExtend 32

/-- Zero extension of a loaded halfword (40_data_transfer.md R139). -/
def zeroHalf (v : Word) : Word := (v.setWidth 16).setWidth 32

/-- A loaded word (40_data_transfer.md R131). -/
def wholeWord (v : Word) : Word := v

end Sys2Proof.Machine
end

