-- ==== Sys2Proof/Machine/ArithLogic.lean ====
section
/-! DEFINITION. The arithmetic and logical instructions (41_arith_logic.md R150 to R172). -/

namespace Sys2Proof.Machine

/-- Bits 63..32 of an exact product as 64-bit two's complement (41_arith_logic.md R169 to R171). -/
def upperHalf (p : Int) : Word := (BitVec.ofInt 64 p).extractLsb' 32 32

/-- The signed quotient rounded toward zero; none for a zero divisor and for -2^31 / -1, where the
result is unknown (41_arith_logic.md R164, 92 D14). -/
def signedQuotient (a b : Word) : Option Word :=
  if b = 0#32 then none
  else if a = 0x80000000#32 ∧ b = 0xFFFFFFFF#32 then none
  else some (BitVec.ofInt 32 (Int.tdiv a.toInt b.toInt))

/-- The unsigned quotient; none for a zero divisor (41_arith_logic.md R165, 92 D14). -/
def unsignedQuotient (a b : Word) : Option Word :=
  if b = 0#32 then none else some (BitVec.ofNat 32 (a.toNat / b.toNat))

/-- The end of a division: the quotient, or where there is none a fresh free value (41_arith_logic.md
R164, `draw(32)`). -/
def State.divide (s : State) (rC : Reg) (q : Option Word) : Result :=
  match q with
  | some v => s.finish rC v
  | none => s.drawn.finish rC (Config.freeWord s.draws)

/-- `and rC, rA, rB` (41_arith_logic.md R151). -/
def execAnd (rC rA rB : Reg) (s : State) : Result := s.finish rC (s.readReg rA &&& s.readReg rB)

/-- `or rC, rA, rB` (41_arith_logic.md R152). -/
def execOr (rC rA rB : Reg) (s : State) : Result := s.finish rC (s.readReg rA ||| s.readReg rB)

/-- `xor rC, rA, rB` (41_arith_logic.md R153). -/
def execXor (rC rA rB : Reg) (s : State) : Result := s.finish rC (s.readReg rA ^^^ s.readReg rB)

/-- `nor rC, rA, rB` (41_arith_logic.md R154). -/
def execNor (rC rA rB : Reg) (s : State) : Result := s.finish rC (~~~(s.readReg rA ||| s.readReg rB))

/-- `andi rB, rA, IMM16` (41_arith_logic.md R155). -/
def execAndi (rB rA : Reg) (imm16 : Half) (s : State) : Result := s.finish rB (s.readReg rA &&& zextImm imm16)

/-- `ori rB, rA, IMM16` (41_arith_logic.md R156). -/
def execOri (rB rA : Reg) (imm16 : Half) (s : State) : Result := s.finish rB (s.readReg rA ||| zextImm imm16)

/-- `xori rB, rA, IMM16` (41_arith_logic.md R157). -/
def execXori (rB rA : Reg) (imm16 : Half) (s : State) : Result := s.finish rB (s.readReg rA ^^^ zextImm imm16)

/-- `andhi rB, rA, IMM16` (41_arith_logic.md R158). -/
def execAndhi (rB rA : Reg) (imm16 : Half) (s : State) : Result :=
  s.finish rB (s.readReg rA &&& highImm imm16)

/-- `orhi rB, rA, IMM16` (41_arith_logic.md R159). -/
def execOrhi (rB rA : Reg) (imm16 : Half) (s : State) : Result := s.finish rB (s.readReg rA ||| highImm imm16)

/-- `xorhi rB, rA, IMM16` (41_arith_logic.md R160). -/
def execXorhi (rB rA : Reg) (imm16 : Half) (s : State) : Result :=
  s.finish rB (s.readReg rA ^^^ highImm imm16)

/-- `add rC, rA, rB` (41_arith_logic.md R161). -/
def execAdd (rC rA rB : Reg) (s : State) : Result := s.finish rC (s.readReg rA + s.readReg rB)

/-- `sub rC, rA, rB` (41_arith_logic.md R162). -/
def execSub (rC rA rB : Reg) (s : State) : Result := s.finish rC (s.readReg rA - s.readReg rB)

/-- `mul rC, rA, rB` (41_arith_logic.md R163). -/
def execMul (rC rA rB : Reg) (s : State) : Result :=
  s.unlessAbsent s.cfg.unimplemented.mul (s.finish rC (s.readReg rA * s.readReg rB))

/-- `div rC, rA, rB` (41_arith_logic.md R164). -/
def execDiv (rC rA rB : Reg) (s : State) : Result :=
  s.unlessAbsent s.cfg.unimplemented.div (s.divide rC (signedQuotient (s.readReg rA) (s.readReg rB)))

/-- `divu rC, rA, rB` (41_arith_logic.md R165). -/
def execDivu (rC rA rB : Reg) (s : State) : Result :=
  s.unlessAbsent s.cfg.unimplemented.divu (s.divide rC (unsignedQuotient (s.readReg rA) (s.readReg rB)))

/-- `addi rB, rA, IMM16` (41_arith_logic.md R166). -/
def execAddi (rB rA : Reg) (imm16 : Half) (s : State) : Result := s.finish rB (s.readReg rA + sextImm imm16)

/-- `subi rB, rA, IMM16` (41_arith_logic.md R167). The operand is the number subtracted. -/
def execSubi (rB rA : Reg) (imm : Int) (s : State) : Result :=
  s.finish rB (s.readReg rA - BitVec.ofInt 32 imm)

/-- `muli rB, rA, IMM16` (41_arith_logic.md R168). -/
def execMuli (rB rA : Reg) (imm16 : Half) (s : State) : Result :=
  s.unlessAbsent s.cfg.unimplemented.muli (s.finish rB (s.readReg rA * sextImm imm16))

/-- `mulxss rC, rA, rB` (41_arith_logic.md R169). -/
def execMulxss (rC rA rB : Reg) (s : State) : Result :=
  s.unlessAbsent s.cfg.unimplemented.mulxss (s.finish rC (upperHalf ((s.readReg rA).toInt * (s.readReg rB).toInt)))

/-- `mulxuu rC, rA, rB` (41_arith_logic.md R170). -/
def execMulxuu (rC rA rB : Reg) (s : State) : Result :=
  s.unlessAbsent s.cfg.unimplemented.mulxuu (s.finish rC (upperHalf (((s.readReg rA).toNat : Int) * (s.readReg rB).toNat)))

/-- `mulxsu rC, rA, rB` (41_arith_logic.md R171). -/
def execMulxsu (rC rA rB : Reg) (s : State) : Result :=
  s.unlessAbsent s.cfg.unimplemented.mulxsu (s.finish rC (upperHalf ((s.readReg rA).toInt * (s.readReg rB).toNat)))

end Sys2Proof.Machine
end

