-- ==== Sys2Proof/Machine/Flags.lean ====
section
/-! DEFINITION. The architecture has no condition codes and no flag side effects (10_state.md R28);
what takes their place are the relations that the comparison instructions write to a register and the
conditional branches test (43_compare.md R190, 45_program_control.md R235). -/

namespace Sys2Proof.Machine

/-- The ten relations (43_compare.md R190). -/
inductive Relation where
  | eq | ne | ge | geu | gt | gtu | le | leu | lt | ltu
deriving DecidableEq, Repr

/-- Whether `a` stands in the relation to `b`: signed relations read two's complement, the `u`
relations 0 to 2^32-1 (43_compare.md R190 to R200). -/
def relationHolds (rel : Relation) (a b : Word) : Bool :=
  match rel with
  | .eq => a == b
  | .ne => a != b
  | .ge => decide (b.toInt ≤ a.toInt)
  | .geu => decide (b.toNat ≤ a.toNat)
  | .gt => decide (b.toInt < a.toInt)
  | .gtu => decide (b.toNat < a.toNat)
  | .le => decide (a.toInt ≤ b.toInt)
  | .leu => decide (a.toNat ≤ b.toNat)
  | .lt => decide (a.toInt < b.toInt)
  | .ltu => decide (a.toNat < b.toNat)

/-- The result of a comparison: the 32-bit value 1 if true, 0 if false (43_compare.md R190). -/
def truthWord (b : Bool) : Word := if b then 1#32 else 0#32

end Sys2Proof.Machine
end

