-- ==== Sys2Proof/Machine/Compare.lean ====
section
/-! DEFINITION. The comparison instructions (43_compare.md R190 to R210). -/

namespace Sys2Proof.Machine

/-- A comparison: 1 or 0 to the destination (43_compare.md R190). -/
def State.compareInto (s : State) (r : Reg) (rel : Relation) (a b : Word) : Result :=
  s.finish r (truthWord (relationHolds rel a b))

/-- `cmpeq rC, rA, rB` (43_compare.md R191). -/
def execCmpeq (rC rA rB : Reg) (s : State) : Result := s.compareInto rC .eq (s.readReg rA) (s.readReg rB)

/-- `cmpne rC, rA, rB` (43_compare.md R192). -/
def execCmpne (rC rA rB : Reg) (s : State) : Result := s.compareInto rC .ne (s.readReg rA) (s.readReg rB)

/-- `cmpge rC, rA, rB` (43_compare.md R193). -/
def execCmpge (rC rA rB : Reg) (s : State) : Result := s.compareInto rC .ge (s.readReg rA) (s.readReg rB)

/-- `cmpgeu rC, rA, rB` (43_compare.md R194). -/
def execCmpgeu (rC rA rB : Reg) (s : State) : Result := s.compareInto rC .geu (s.readReg rA) (s.readReg rB)

/-- `cmpgt rC, rA, rB` (43_compare.md R195). -/
def execCmpgt (rC rA rB : Reg) (s : State) : Result := s.compareInto rC .gt (s.readReg rA) (s.readReg rB)

/-- `cmpgtu rC, rA, rB` (43_compare.md R196). -/
def execCmpgtu (rC rA rB : Reg) (s : State) : Result := s.compareInto rC .gtu (s.readReg rA) (s.readReg rB)

/-- `cmple rC, rA, rB` (43_compare.md R197). -/
def execCmple (rC rA rB : Reg) (s : State) : Result := s.compareInto rC .le (s.readReg rA) (s.readReg rB)

/-- `cmpleu rC, rA, rB` (43_compare.md R198). -/
def execCmpleu (rC rA rB : Reg) (s : State) : Result := s.compareInto rC .leu (s.readReg rA) (s.readReg rB)

/-- `cmplt rC, rA, rB` (43_compare.md R199). -/
def execCmplt (rC rA rB : Reg) (s : State) : Result := s.compareInto rC .lt (s.readReg rA) (s.readReg rB)

/-- `cmpltu rC, rA, rB` (43_compare.md R200). -/
def execCmpltu (rC rA rB : Reg) (s : State) : Result := s.compareInto rC .ltu (s.readReg rA) (s.readReg rB)

/-- `cmpeqi rB, rA, IMM16` (43_compare.md R201). -/
def execCmpeqi (rB rA : Reg) (imm16 : Half) (s : State) : Result :=
  s.compareInto rB .eq (s.readReg rA) (sextImm imm16)

/-- `cmpnei rB, rA, IMM16` (43_compare.md R202). -/
def execCmpnei (rB rA : Reg) (imm16 : Half) (s : State) : Result :=
  s.compareInto rB .ne (s.readReg rA) (sextImm imm16)

/-- `cmpgei rB, rA, IMM16` (43_compare.md R203). -/
def execCmpgei (rB rA : Reg) (imm16 : Half) (s : State) : Result :=
  s.compareInto rB .ge (s.readReg rA) (sextImm imm16)

/-- `cmpgeui rB, rA, IMM16` (43_compare.md R204). -/
def execCmpgeui (rB rA : Reg) (imm16 : Half) (s : State) : Result :=
  s.compareInto rB .geu (s.readReg rA) (zextImm imm16)

/-- `cmpgti rB, rA, IMM16` (43_compare.md R205). -/
def execCmpgti (rB rA : Reg) (imm16 : Half) (s : State) : Result :=
  s.compareInto rB .gt (s.readReg rA) (sextImm imm16)

/-- `cmpgtui rB, rA, IMM16` (43_compare.md R206). -/
def execCmpgtui (rB rA : Reg) (imm16 : Half) (s : State) : Result :=
  s.compareInto rB .gtu (s.readReg rA) (zextImm imm16)

/-- `cmplei rB, rA, IMM16` (43_compare.md R207). -/
def execCmplei (rB rA : Reg) (imm16 : Half) (s : State) : Result :=
  s.compareInto rB .le (s.readReg rA) (sextImm imm16)

/-- `cmpleui rB, rA, IMM16` (43_compare.md R208). -/
def execCmpleui (rB rA : Reg) (imm16 : Half) (s : State) : Result :=
  s.compareInto rB .leu (s.readReg rA) (zextImm imm16)

/-- `cmplti rB, rA, IMM16` (43_compare.md R209). -/
def execCmplti (rB rA : Reg) (imm16 : Half) (s : State) : Result :=
  s.compareInto rB .lt (s.readReg rA) (sextImm imm16)

/-- `cmpltui rB, rA, IMM16` (43_compare.md R210). -/
def execCmpltui (rB rA : Reg) (imm16 : Half) (s : State) : Result :=
  s.compareInto rB .ltu (s.readReg rA) (zextImm imm16)

end Sys2Proof.Machine
end

