-- ==== Sys2Proof/Machine/Custom.lean ====
section
/-! DEFINITION. Custom instructions and the no-operation (47_custom_nop_unimplemented.md R270, R271). -/

namespace Sys2Proof.Machine

/-- `custom N, xC, xA, xB` (47_custom_nop_unimplemented.md R270). -/
def execCustom (n : Byte) (xC xA xB : XReg) (s : State) : Result :=
  if s.cfg.customPresent.contains n then .next (s.customWrite xC (s.customCall n xC xA xB)).advance
  else .refused (.customNotPresent n)

/-- `nop` (47_custom_nop_unimplemented.md R271). -/
def execNop (s : State) : Result := .next s.advance

end Sys2Proof.Machine
end

