-- ==== Sys2Proof/Machine/DataTransfer.lean ====
section
/-! DEFINITION. The sixteen loads and stores (40_data_transfer.md R130 to R146). -/

namespace Sys2Proof.Machine

/-- A load: the effective address, the access, the extension of the value, the destination
(40_data_transfer.md R130). -/
def State.loadInto (s : State) (io : Bool) (width : AccessWidth) (extend : Word → Word) (rB : Reg)
    (imm16 : Half) (rA : Reg) : Result :=
  andThen (s.load io (s.effectiveAddr rA imm16) width) fun r => r.2.finish rB (extend r.1)

/-- A store: the effective address, the access, no register (40_data_transfer.md R130). -/
def State.storeFrom (s : State) (io : Bool) (width : AccessWidth) (rB : Reg) (imm16 : Half) (rA : Reg) : Result :=
  andThen (s.store io (s.effectiveAddr rA imm16) width (s.readReg rB)) fun t => .next t.advance

/-- `ldw rB, IMM16(rA)` (40_data_transfer.md R131). -/
def execLdw (rB : Reg) (imm16 : Half) (rA : Reg) (s : State) : Result :=
  s.loadInto false .word wholeWord rB imm16 rA

/-- `stw rB, IMM16(rA)` (40_data_transfer.md R132). -/
def execStw (rB : Reg) (imm16 : Half) (rA : Reg) (s : State) : Result := s.storeFrom false .word rB imm16 rA

/-- `ldwio rB, IMM16(rA)` (40_data_transfer.md R133). -/
def execLdwio (rB : Reg) (imm16 : Half) (rA : Reg) (s : State) : Result :=
  s.loadInto true .word wholeWord rB imm16 rA

/-- `stwio rB, IMM16(rA)` (40_data_transfer.md R134). -/
def execStwio (rB : Reg) (imm16 : Half) (rA : Reg) (s : State) : Result := s.storeFrom true .word rB imm16 rA

/-- `ldb rB, IMM16(rA)` (40_data_transfer.md R135). -/
def execLdb (rB : Reg) (imm16 : Half) (rA : Reg) (s : State) : Result :=
  s.loadInto false .byte signByte rB imm16 rA

/-- `ldbu rB, IMM16(rA)` (40_data_transfer.md R136). -/
def execLdbu (rB : Reg) (imm16 : Half) (rA : Reg) (s : State) : Result :=
  s.loadInto false .byte zeroByte rB imm16 rA

/-- `stb rB, IMM16(rA)` (40_data_transfer.md R137). -/
def execStb (rB : Reg) (imm16 : Half) (rA : Reg) (s : State) : Result := s.storeFrom false .byte rB imm16 rA

/-- `ldh rB, IMM16(rA)` (40_data_transfer.md R138). -/
def execLdh (rB : Reg) (imm16 : Half) (rA : Reg) (s : State) : Result :=
  s.loadInto false .half signHalf rB imm16 rA

/-- `ldhu rB, IMM16(rA)` (40_data_transfer.md R139). -/
def execLdhu (rB : Reg) (imm16 : Half) (rA : Reg) (s : State) : Result :=
  s.loadInto false .half zeroHalf rB imm16 rA

/-- `sth rB, IMM16(rA)` (40_data_transfer.md R140). -/
def execSth (rB : Reg) (imm16 : Half) (rA : Reg) (s : State) : Result := s.storeFrom false .half rB imm16 rA

/-- `ldbio rB, IMM16(rA)` (40_data_transfer.md R141). -/
def execLdbio (rB : Reg) (imm16 : Half) (rA : Reg) (s : State) : Result :=
  s.loadInto true .byte signByte rB imm16 rA

/-- `ldbuio rB, IMM16(rA)` (40_data_transfer.md R142). -/
def execLdbuio (rB : Reg) (imm16 : Half) (rA : Reg) (s : State) : Result :=
  s.loadInto true .byte zeroByte rB imm16 rA

/-- `stbio rB, IMM16(rA)` (40_data_transfer.md R143). -/
def execStbio (rB : Reg) (imm16 : Half) (rA : Reg) (s : State) : Result := s.storeFrom true .byte rB imm16 rA

/-- `ldhio rB, IMM16(rA)` (40_data_transfer.md R144). -/
def execLdhio (rB : Reg) (imm16 : Half) (rA : Reg) (s : State) : Result :=
  s.loadInto true .half signHalf rB imm16 rA

/-- `ldhuio rB, IMM16(rA)` (40_data_transfer.md R145). -/
def execLdhuio (rB : Reg) (imm16 : Half) (rA : Reg) (s : State) : Result :=
  s.loadInto true .half zeroHalf rB imm16 rA

/-- `sthio rB, IMM16(rA)` (40_data_transfer.md R146). -/
def execSthio (rB : Reg) (imm16 : Half) (rA : Reg) (s : State) : Result := s.storeFrom true .half rB imm16 rA

end Sys2Proof.Machine
end

