-- ==== Sys2Proof/Machine/Move.lean ====
section
/-! DEFINITION. The move instructions, all pseudo-instructions (42_move.md R179 to R184): the semantics each rule
states. That the machine instructions the assembler emits have them is the statement
`PseudoInstructionsRunAsExpanded`. -/

namespace Sys2Proof.Machine

/-- `mov rC, rA` (42_move.md R180). -/
def execMov (rC rA : Reg) (s : State) : Result := s.finish rC (s.readReg rA)

/-- `movhi rB, IMM16` (42_move.md R181). -/
def execMovhi (rB : Reg) (imm16 : Half) (s : State) : Result := s.finish rB (highImm imm16)

/-- `movi rB, IMM16` (42_move.md R182). -/
def execMovi (rB : Reg) (imm16 : Half) (s : State) : Result := s.finish rB (sextImm imm16)

/-- `movui rB, IMM16` (42_move.md R183). -/
def execMovui (rB : Reg) (imm16 : Half) (s : State) : Result := s.finish rB (zextImm imm16)

/-- `movia rB, label` (42_move.md R184). Two words: the label is loaded and `pc` advances by 8. -/
def execMovia (rB : Reg) (label : Word) (s : State) : Result := .next (s.writeReg rB label).advance.advance

end Sys2Proof.Machine
end

