-- ==== Sys2Proof/Machine/OtherControl.lean ====
section
/-! DEFINITION. Traps, breaks, control registers, cache management and ordering (46_other_control.md R249 to R263). -/

namespace Sys2Proof.Machine

/-- `trap` (46_other_control.md R250). -/
def execTrap (s : State) : Result := .next (s.exceptionEntry (s.pc + 4#32))

/-- `eret` (46_other_control.md R251). -/
def execEret (s : State) : Result := s.privileged s.exceptionReturn

/-- `break` (46_other_control.md R252). The operand is ignored. -/
def execBrk (_imm5 : BitVec 5) (s : State) : Result := .next (s.breakEntry (s.pc + 4#32))

/-- `bret` (46_other_control.md R253). The field is ignored. -/
def execBret (_fieldC : BitVec 5) (s : State) : Result := s.privileged s.breakReturn

/-- `rdctl rC, ctlN` (46_other_control.md R254). -/
def execRdctl (rC : Reg) (n : CtlNum) (s : State) : Result :=
  s.privileged (andThen (s.readCtl n) fun r => r.2.finish rC r.1)

/-- `wrctl ctlN, rA` (46_other_control.md R255). -/
def execWrctl (n : CtlNum) (rA : Reg) (s : State) : Result :=
  s.privileged (andThen (s.writeCtl n (s.readReg rA)) fun t => .next t.advance)

/-- `flushd IMM16(rA)` (46_other_control.md R257). -/
def execFlushd (imm16 : Half) (rA : Reg) (s : State) : Result :=
  .next (s.flushDataLine (dataAddr s.cfg (s.effectiveAddr rA imm16))).advance

/-- `flushi rA` (46_other_control.md R259). -/
def execFlushi (rA : Reg) (s : State) : Result := .next (s.invalidateInstructionLine (s.readReg rA)).advance

/-- `initd IMM16(rA)` (46_other_control.md R258). -/
def execInitd (imm16 : Half) (rA : Reg) (s : State) : Result :=
  s.privileged (.next (s.invalidateDataLine (dataAddr s.cfg (s.effectiveAddr rA imm16))).advance)

/-- `initi rA` (46_other_control.md R260). -/
def execIniti (rA : Reg) (s : State) : Result :=
  s.privileged (.next (s.invalidateInstructionLine (s.readReg rA)).advance)

/-- `flushp` (46_other_control.md R262). -/
def execFlushp (s : State) : Result := .next s.flushPipeline.advance

/-- `sync` (46_other_control.md R263). Accesses complete in program order here, so there is nothing to wait for. -/
def execSync (s : State) : Result := .next s.advance

end Sys2Proof.Machine
end

