-- ==== Sys2Proof/Machine/ProgramControl.lean ====
section
/-! DEFINITION. The jumps, calls and branches (45_program_control.md R229 to R246); none has a delay slot. -/

namespace Sys2Proof.Machine

/-- A conditional branch: when the relation does not hold the immediate is not examined
(45_program_control.md R235). -/
def State.branchIf (s : State) (rel : Relation) (rA rB : Reg) (imm16 : Half) : Result :=
  if relationHolds rel (s.readReg rA) (s.readReg rB) then s.jump (s.branchTarget imm16) else .next s.advance

/-- `call label` (45_program_control.md R230). -/
def execCall (imm26 : BitVec 26) (s : State) : Result :=
  (s.writeReg 31 (s.pc + 4#32)).jump (s.callTarget imm26)

/-- `callr rA` (45_program_control.md R231). The target is read before `ra` is written. -/
def execCallr (rA : Reg) (s : State) : Result := (s.writeReg 31 (s.pc + 4#32)).jump (s.readReg rA)

/-- `ret` (45_program_control.md R232). -/
def execRet (s : State) : Result := s.jump (s.readReg 31)

/-- `jmp rA` (45_program_control.md R233). -/
def execJmp (rA : Reg) (s : State) : Result := s.jump (s.readReg rA)

/-- `br label` (45_program_control.md R234). -/
def execBr (imm16 : Half) (s : State) : Result := s.jump (s.branchTarget imm16)

/-- `bge rA, rB, label` (45_program_control.md R236). -/
def execBge (rA rB : Reg) (imm16 : Half) (s : State) : Result := s.branchIf .ge rA rB imm16

/-- `bgeu rA, rB, label` (45_program_control.md R237). -/
def execBgeu (rA rB : Reg) (imm16 : Half) (s : State) : Result := s.branchIf .geu rA rB imm16

/-- `bgt rA, rB, label` (45_program_control.md R238). -/
def execBgt (rA rB : Reg) (imm16 : Half) (s : State) : Result := s.branchIf .gt rA rB imm16

/-- `bgtu rA, rB, label` (45_program_control.md R239). -/
def execBgtu (rA rB : Reg) (imm16 : Half) (s : State) : Result := s.branchIf .gtu rA rB imm16

/-- `ble rA, rB, label` (45_program_control.md R240). -/
def execBle (rA rB : Reg) (imm16 : Half) (s : State) : Result := s.branchIf .le rA rB imm16

/-- `bleu rA, rB, label` (45_program_control.md R241). -/
def execBleu (rA rB : Reg) (imm16 : Half) (s : State) : Result := s.branchIf .leu rA rB imm16

/-- `blt rA, rB, label` (45_program_control.md R242). -/
def execBlt (rA rB : Reg) (imm16 : Half) (s : State) : Result := s.branchIf .lt rA rB imm16

/-- `bltu rA, rB, label` (45_program_control.md R243). -/
def execBltu (rA rB : Reg) (imm16 : Half) (s : State) : Result := s.branchIf .ltu rA rB imm16

/-- `beq rA, rB, label` (45_program_control.md R244). -/
def execBeq (rA rB : Reg) (imm16 : Half) (s : State) : Result := s.branchIf .eq rA rB imm16

/-- `bne rA, rB, label` (45_program_control.md R245). -/
def execBne (rA rB : Reg) (imm16 : Half) (s : State) : Result := s.branchIf .ne rA rB imm16

end Sys2Proof.Machine
end

