-- ==== Sys2Proof/Machine/ShiftRotate.lean ====
section
/-! DEFINITION. The shift and rotate instructions (44_shift_rotate.md R215 to R224). -/

namespace Sys2Proof.Machine

/-- `rol rC, rA, rB` (44_shift_rotate.md R216). -/
def execRol (rC rA rB : Reg) (s : State) : Result :=
  s.finish rC ((s.readReg rA).rotateLeft (regCount (s.readReg rB)))

/-- `ror rC, rA, rB` (44_shift_rotate.md R217). -/
def execRor (rC rA rB : Reg) (s : State) : Result :=
  s.finish rC ((s.readReg rA).rotateRight (regCount (s.readReg rB)))

/-- `roli rC, rA, IMM5` (44_shift_rotate.md R218). -/
def execRoli (rC rA : Reg) (imm5 : BitVec 5) (s : State) : Result :=
  s.finish rC ((s.readReg rA).rotateLeft (immCount imm5))

/-- `sll rC, rA, rB` (44_shift_rotate.md R219). -/
def execSll (rC rA rB : Reg) (s : State) : Result := s.finish rC (s.readReg rA <<< regCount (s.readReg rB))

/-- `slli rC, rA, IMM5` (44_shift_rotate.md R220). -/
def execSlli (rC rA : Reg) (imm5 : BitVec 5) (s : State) : Result :=
  s.finish rC (s.readReg rA <<< immCount imm5)

/-- `sra rC, rA, rB` (44_shift_rotate.md R221). -/
def execSra (rC rA rB : Reg) (s : State) : Result :=
  s.finish rC ((s.readReg rA).sshiftRight (regCount (s.readReg rB)))

/-- `srl rC, rA, rB` (44_shift_rotate.md R222). -/
def execSrl (rC rA rB : Reg) (s : State) : Result := s.finish rC (s.readReg rA >>> regCount (s.readReg rB))

/-- `srai rC, rA, IMM5` (44_shift_rotate.md R223). -/
def execSrai (rC rA : Reg) (imm5 : BitVec 5) (s : State) : Result :=
  s.finish rC ((s.readReg rA).sshiftRight (immCount imm5))

/-- `srli rC, rA, IMM5` (44_shift_rotate.md R224). -/
def execSrli (rC rA : Reg) (imm5 : BitVec 5) (s : State) : Result :=
  s.finish rC (s.readReg rA >>> immCount imm5)

end Sys2Proof.Machine
end

