-- ==== Sys2Proof/Machine/Dispatch.lean ====
section
/-! DEFINITION. The meaning of every instruction: one arm per constructor, in the opcode table's order. -/

namespace Sys2Proof.Machine

def exec (i : Instr) (s : State) : Host.Outcome State Fault Refusal :=
  match i with
  | .ldbu rB imm16 rA => Sys2Proof.Machine.execLdbu rB imm16 rA s
  | .addi rB rA imm16 => Sys2Proof.Machine.execAddi rB rA imm16 s
  | .stb rB imm16 rA => Sys2Proof.Machine.execStb rB imm16 rA s
  | .br imm16 => Sys2Proof.Machine.execBr imm16 s
  | .ldb rB imm16 rA => Sys2Proof.Machine.execLdb rB imm16 rA s
  | .cmpgei rB rA imm16 => Sys2Proof.Machine.execCmpgei rB rA imm16 s
  | .ldhu rB imm16 rA => Sys2Proof.Machine.execLdhu rB imm16 rA s
  | .andi rB rA imm16 => Sys2Proof.Machine.execAndi rB rA imm16 s
  | .sth rB imm16 rA => Sys2Proof.Machine.execSth rB imm16 rA s
  | .bge rA rB imm16 => Sys2Proof.Machine.execBge rA rB imm16 s
  | .ldh rB imm16 rA => Sys2Proof.Machine.execLdh rB imm16 rA s
  | .cmplti rB rA imm16 => Sys2Proof.Machine.execCmplti rB rA imm16 s
  | .ori rB rA imm16 => Sys2Proof.Machine.execOri rB rA imm16 s
  | .stw rB imm16 rA => Sys2Proof.Machine.execStw rB imm16 rA s
  | .blt rA rB imm16 => Sys2Proof.Machine.execBlt rA rB imm16 s
  | .ldw rB imm16 rA => Sys2Proof.Machine.execLdw rB imm16 rA s
  | .cmpnei rB rA imm16 => Sys2Proof.Machine.execCmpnei rB rA imm16 s
  | .xori rB rA imm16 => Sys2Proof.Machine.execXori rB rA imm16 s
  | .bne rA rB imm16 => Sys2Proof.Machine.execBne rA rB imm16 s
  | .cmpeqi rB rA imm16 => Sys2Proof.Machine.execCmpeqi rB rA imm16 s
  | .ldbuio rB imm16 rA => Sys2Proof.Machine.execLdbuio rB imm16 rA s
  | .muli rB rA imm16 => Sys2Proof.Machine.execMuli rB rA imm16 s
  | .stbio rB imm16 rA => Sys2Proof.Machine.execStbio rB imm16 rA s
  | .beq rA rB imm16 => Sys2Proof.Machine.execBeq rA rB imm16 s
  | .ldbio rB imm16 rA => Sys2Proof.Machine.execLdbio rB imm16 rA s
  | .cmpgeui rB rA imm16 => Sys2Proof.Machine.execCmpgeui rB rA imm16 s
  | .ldhuio rB imm16 rA => Sys2Proof.Machine.execLdhuio rB imm16 rA s
  | .andhi rB rA imm16 => Sys2Proof.Machine.execAndhi rB rA imm16 s
  | .sthio rB imm16 rA => Sys2Proof.Machine.execSthio rB imm16 rA s
  | .bgeu rA rB imm16 => Sys2Proof.Machine.execBgeu rA rB imm16 s
  | .ldhio rB imm16 rA => Sys2Proof.Machine.execLdhio rB imm16 rA s
  | .cmpltui rB rA imm16 => Sys2Proof.Machine.execCmpltui rB rA imm16 s
  | .initd imm16 rA => Sys2Proof.Machine.execInitd imm16 rA s
  | .orhi rB rA imm16 => Sys2Proof.Machine.execOrhi rB rA imm16 s
  | .stwio rB imm16 rA => Sys2Proof.Machine.execStwio rB imm16 rA s
  | .bltu rA rB imm16 => Sys2Proof.Machine.execBltu rA rB imm16 s
  | .ldwio rB imm16 rA => Sys2Proof.Machine.execLdwio rB imm16 rA s
  | .flushd imm16 rA => Sys2Proof.Machine.execFlushd imm16 rA s
  | .xorhi rB rA imm16 => Sys2Proof.Machine.execXorhi rB rA imm16 s
  | .call imm26 => Sys2Proof.Machine.execCall imm26 s
  | .custom n xC xA xB => Sys2Proof.Machine.execCustom n xC xA xB s
  | .eret => Sys2Proof.Machine.execEret s
  | .roli rC rA imm5 => Sys2Proof.Machine.execRoli rC rA imm5 s
  | .rol rC rA rB => Sys2Proof.Machine.execRol rC rA rB s
  | .flushp => Sys2Proof.Machine.execFlushp s
  | .ret => Sys2Proof.Machine.execRet s
  | .nor rC rA rB => Sys2Proof.Machine.execNor rC rA rB s
  | .mulxuu rC rA rB => Sys2Proof.Machine.execMulxuu rC rA rB s
  | .cmpge rC rA rB => Sys2Proof.Machine.execCmpge rC rA rB s
  | .bret fieldC => Sys2Proof.Machine.execBret fieldC s
  | .ror rC rA rB => Sys2Proof.Machine.execRor rC rA rB s
  | .flushi rA => Sys2Proof.Machine.execFlushi rA s
  | .jmp rA => Sys2Proof.Machine.execJmp rA s
  | .and rC rA rB => Sys2Proof.Machine.execAnd rC rA rB s
  | .cmplt rC rA rB => Sys2Proof.Machine.execCmplt rC rA rB s
  | .slli rC rA imm5 => Sys2Proof.Machine.execSlli rC rA imm5 s
  | .sll rC rA rB => Sys2Proof.Machine.execSll rC rA rB s
  | .or rC rA rB => Sys2Proof.Machine.execOr rC rA rB s
  | .mulxsu rC rA rB => Sys2Proof.Machine.execMulxsu rC rA rB s
  | .cmpne rC rA rB => Sys2Proof.Machine.execCmpne rC rA rB s
  | .srli rC rA imm5 => Sys2Proof.Machine.execSrli rC rA imm5 s
  | .srl rC rA rB => Sys2Proof.Machine.execSrl rC rA rB s
  | .callr rA => Sys2Proof.Machine.execCallr rA s
  | .xor rC rA rB => Sys2Proof.Machine.execXor rC rA rB s
  | .mulxss rC rA rB => Sys2Proof.Machine.execMulxss rC rA rB s
  | .cmpeq rC rA rB => Sys2Proof.Machine.execCmpeq rC rA rB s
  | .divu rC rA rB => Sys2Proof.Machine.execDivu rC rA rB s
  | .div rC rA rB => Sys2Proof.Machine.execDiv rC rA rB s
  | .rdctl rC n => Sys2Proof.Machine.execRdctl rC n s
  | .mul rC rA rB => Sys2Proof.Machine.execMul rC rA rB s
  | .cmpgeu rC rA rB => Sys2Proof.Machine.execCmpgeu rC rA rB s
  | .initi rA => Sys2Proof.Machine.execIniti rA s
  | .trap => Sys2Proof.Machine.execTrap s
  | .wrctl n rA => Sys2Proof.Machine.execWrctl n rA s
  | .cmpltu rC rA rB => Sys2Proof.Machine.execCmpltu rC rA rB s
  | .add rC rA rB => Sys2Proof.Machine.execAdd rC rA rB s
  | .brk imm5 => Sys2Proof.Machine.execBrk imm5 s
  | .sync => Sys2Proof.Machine.execSync s
  | .sub rC rA rB => Sys2Proof.Machine.execSub rC rA rB s
  | .srai rC rA imm5 => Sys2Proof.Machine.execSrai rC rA imm5 s
  | .sra rC rA rB => Sys2Proof.Machine.execSra rC rA rB s
  | .mov rC rA => Sys2Proof.Machine.execMov rC rA s
  | .movhi rB imm16 => Sys2Proof.Machine.execMovhi rB imm16 s
  | .movi rB imm16 => Sys2Proof.Machine.execMovi rB imm16 s
  | .movui rB imm16 => Sys2Proof.Machine.execMovui rB imm16 s
  | .movia rB label => Sys2Proof.Machine.execMovia rB label s
  | .nop => Sys2Proof.Machine.execNop s
  | .subi rB rA imm => Sys2Proof.Machine.execSubi rB rA imm s
  | .cmpgt rC rA rB => Sys2Proof.Machine.execCmpgt rC rA rB s
  | .cmpgtu rC rA rB => Sys2Proof.Machine.execCmpgtu rC rA rB s
  | .cmple rC rA rB => Sys2Proof.Machine.execCmple rC rA rB s
  | .cmpleu rC rA rB => Sys2Proof.Machine.execCmpleu rC rA rB s
  | .cmpgti rB rA imm16 => Sys2Proof.Machine.execCmpgti rB rA imm16 s
  | .cmpgtui rB rA imm16 => Sys2Proof.Machine.execCmpgtui rB rA imm16 s
  | .cmplei rB rA imm16 => Sys2Proof.Machine.execCmplei rB rA imm16 s
  | .cmpleui rB rA imm16 => Sys2Proof.Machine.execCmpleui rB rA imm16 s
  | .bgt rA rB imm16 => Sys2Proof.Machine.execBgt rA rB imm16 s
  | .bgtu rA rB imm16 => Sys2Proof.Machine.execBgtu rA rB imm16 s
  | .ble rA rB imm16 => Sys2Proof.Machine.execBle rA rB imm16 s
  | .bleu rA rB imm16 => Sys2Proof.Machine.execBleu rA rB imm16 s

end Sys2Proof.Machine
end

