-- ==== Sys2Proof/Machine/Step.lean ====
section
/-! DEFINITION. One step of the processor, in the order of 00_scope.md R8 (92 D12). -/

namespace Sys2Proof.Machine

/-- One step (00_scope.md R8): the environment's boundary, a hardware break, a hardware interrupt, or
the instruction at `pc`. -/
def step (s : State) : Host.Outcome State Fault Refusal := s.stepWith exec

/-- The state whose very next step runs the opcode-table word `w` of `nbits` bits. -/
def State.withFetchWord (s : State) (nbits w : Nat) : State := s.placeTableWord nbits w

end Sys2Proof.Machine
end

