-- ==== Sys2Proof/Safety.lean ====
section
/-! DEFINITION. The words in which claims about the machine are stated: the mode, what a result
changes and what it leaves as it was, and the invariant of a sound state. -/

namespace Sys2Proof.Machine

/-! ### Modes (10_state.md R41) -/

/-- The three modes. -/
inductive Mode where
  | debug
  | user
  | supervisor
deriving DecidableEq, Repr

/-- The mode, computed from the state (10_state.md R41). -/
def State.mode (s : State) : Mode := if s.inDebug then .debug else if s.status.u then .user else .supervisor

/-- Both stored bits clear: what `status` becomes on reset and on every entry (60_exceptions.md R290, R310, R330). -/
def StatusBits.clear : StatusBits := { pie := false, u := false }

/-! ### What stays as it was -/

/-- Every general-purpose register reads as before. -/
def State.SameRegs (s t : State) : Prop := ∀ q, t.readReg q = s.readReg q

/-- Register `r` reads `v` unless it is `r0`; every other register, and `r0`, reads as before
(10_state.md R21). -/
def State.RegsAfter (s t : State) (r : Reg) (v : Word) : Prop :=
  ∀ q, t.readReg q = if q = r ∧ q ≠ 0 then v else s.readReg q

/-- The configuration, the control registers and the debug mode bit are as before. -/
structure State.SameControl (s t : State) : Prop where
  cfg : t.cfg = s.cfg
  status : t.status = s.status
  estatus : t.estatus = s.estatus
  bstatus : t.bstatus = s.bstatus
  ienable : t.ienable = s.ienable
  inDebug : t.inDebug = s.inDebug

/-- Every byte of memory reads as before. -/
def State.SameMemory (s t : State) : Prop := ∀ a, t.mem.read a = s.mem.read a

/-- What lies outside the processor is as before: the interrupt inputs and what is to come of the
environment, the custom logic, the transfers on the bus, the stored words, the bytes accessed, the free
values drawn. -/
structure State.SameOutside (s t : State) : Prop where
  irq : t.irq = s.irq
  inputs : t.inputs = s.inputs
  custom : t.custom = s.custom
  ioLog : t.ioLog = s.ioLog
  stored : t.stored = s.stored
  views : t.views = s.views
  draws : t.draws = s.draws

/-! ### What a result does -/

/-- The result goes on at `target` with `v` in register `r`, and that is its whole effect. -/
def Transfers (o : Result) (s : State) (target : Word) (r : Reg) (v : Word) : Prop :=
  ∃ t, o = .next t ∧ t.pc = target ∧ s.RegsAfter t r v ∧ s.SameControl t ∧ s.SameMemory t ∧ s.SameOutside t

/-- The result writes `v` to register `r` and goes on at the next word, and that is its whole effect. -/
def WritesOnly (o : Result) (s : State) (r : Reg) (v : Word) : Prop := Transfers o s (s.pc + 4#32) r v

/-- The result goes on at `target` and changes nothing else. -/
def MovesTo (o : Result) (s : State) (target : Word) : Prop :=
  ∃ t, o = .next t ∧ t.pc = target ∧ s.SameRegs t ∧ s.SameControl t ∧ s.SameMemory t ∧ s.SameOutside t

/-- The result writes one fresh free value to register `r` and goes on at the next word (00_scope.md R7). -/
def WritesFree (o : Result) (s : State) (r : Reg) : Prop :=
  ∃ t, o = .next t ∧ t.pc = s.pc + 4#32 ∧ s.RegsAfter t r (Config.freeWord s.draws) ∧ s.SameControl t ∧
    s.SameMemory t ∧ t.irq = s.irq ∧ t.inputs = s.inputs ∧ t.custom = s.custom ∧ t.ioLog = s.ioLog ∧
    t.stored = s.stored ∧ t.views = s.views ∧ t.draws = s.draws + 1

/-- The result is the exception entry with return address `ret` and nothing else (60_exceptions.md R290, R291). -/
def TakesException (o : Result) (s : State) (ret : Word) : Prop :=
  ∃ t, o = .next t ∧ t.estatus = s.status ∧ t.status = .clear ∧ s.RegsAfter t 29 ret ∧
    t.pc = s.cfg.exceptionWord ++ 0#2 ∧ t.cfg = s.cfg ∧ t.bstatus = s.bstatus ∧ t.ienable = s.ienable ∧
    t.inDebug = s.inDebug ∧ s.SameMemory t ∧ s.SameOutside t

/-- The result is the break entry with return address `ret` and nothing else (60_exceptions.md R310). -/
def TakesBreak (o : Result) (s : State) (ret : Word) : Prop :=
  ∃ t, o = .next t ∧ t.bstatus = s.status ∧ t.status = .clear ∧ s.RegsAfter t 30 ret ∧
    t.pc = s.cfg.breakWord ++ 0#2 ∧ t.inDebug = true ∧ t.cfg = s.cfg ∧ t.estatus = s.estatus ∧
    t.ienable = s.ienable ∧ s.SameMemory t ∧ s.SameOutside t

/-! ### Accesses -/

/-- Byte `i` of what a data access to the bus address `p` gets: memory's byte, or whatever a
peripheral answers, a free value (20_memory.md R70). -/
def State.answeredByte (s : State) (p : Word) (i : Nat) : Byte :=
  if kindAt s.cfg (p + BitVec.ofNat 32 i) = some .memory then s.mem.read (p + BitVec.ofNat 32 i)
  else (Config.freeWord s.draws).extractLsb' (8 * i) 8

/-- The recorded bus transfers after one access: an io access appears exactly once (20_memory.md R72, R76), and
so does an access that bit 31 makes behave as io under `BIT31_BYPASS` (R82, log entry 19); another access is not
recorded (the model's choice, log entry 17). -/
def State.BusAfter (s t : State) (io : Bool) (addr : Word) (x : IoTransfer) : Prop :=
  t.ioLog = if io ∨ (s.cfg.bit31Bypass ∧ addr.getLsbD 31) then x :: s.ioLog else s.ioLog

/-- An access takes a byte of memory the other way, through the data cache or past it, than an earlier access
did since the last `flushd` or `initd` of its line (20_memory.md R77; log entry 26). -/
def State.Mixes (s : State) (io : Bool) (addr : Word) (width : AccessWidth) : Prop :=
  s.cfg.dcacheLine ≠ none ∧ ∃ a, (a - dataAddr s.cfg addr).toNat < width.bytes ∧ kindAt s.cfg a = some .memory ∧
    { addr := a, io := !(io || bypasses s.cfg addr) } ∈ s.views

/-- On a core with a data cache, the bytes of memory that an access reaches are recorded with the way it
takes (20_memory.md R77; log entry 26). -/
def State.ViewsAfter (s t : State) (io : Bool) (addr : Word) (width : AccessWidth) : Prop :=
  ∀ v, v ∈ t.views ↔ v ∈ s.views ∨
    (s.cfg.dcacheLine ≠ none ∧ v.io = (io || bypasses s.cfg addr) ∧ kindAt s.cfg v.addr = some .memory ∧
      (v.addr - dataAddr s.cfg addr).toNat < width.bytes)

/-- The result loads: `raw`, the bytes read at `addr` zero-extended, appears as the transfer of an io
access, `v` goes to register `r`; memory is only read. -/
def Loads (o : Result) (s : State) (io : Bool) (addr : Word) (width : AccessWidth) (raw : Word) (r : Reg)
    (v : Word) : Prop :=
  ∃ t, o = .next t ∧ t.pc = s.pc + 4#32 ∧ s.RegsAfter t r v ∧ s.SameControl t ∧ s.SameMemory t ∧
    t.irq = s.irq ∧ t.inputs = s.inputs ∧ t.custom = s.custom ∧ t.stored = s.stored ∧ s.ViewsAfter t io addr width ∧
    s.BusAfter t io addr { write := false, addr := dataAddr s.cfg addr, width := width, value := raw } ∧
    t.draws = s.draws + (if touchesPeripheral s.cfg (dataAddr s.cfg addr) width then 1 else 0)

/-- The result stores the width's low bytes of `v` at the bus address of `addr`, little-endian; every
byte outside them, and every register, is as before; the word stored to is recorded, in place of an
earlier record of it, as written back only where no data cache may hold it (20_memory.md R64, R71, R88, R89;
log entry 8). -/
def Stores (o : Result) (s : State) (io : Bool) (addr : Word) (width : AccessWidth) (v : Word) : Prop :=
  ∃ t, o = .next t ∧ t.pc = s.pc + 4#32 ∧ s.SameRegs t ∧ s.SameControl t ∧
    t.irq = s.irq ∧ t.inputs = s.inputs ∧ t.custom = s.custom ∧ t.draws = s.draws ∧
    (∀ a, t.mem.read a =
      if (a - dataAddr s.cfg addr).toNat < width.bytes ∧ kindAt s.cfg a = some .memory then
        v.extractLsb' (8 * (a - dataAddr s.cfg addr).toNat) 8
      else s.mem.read a) ∧
    (∀ e, e ∈ t.stored ↔
      e = { addr := wordOf (dataAddr s.cfg addr),
            writtenBack := s.cfg.dcacheLine.isNone || ((io || bypasses s.cfg addr) &&
              s.stored.all fun d => d.addr != wordOf (dataAddr s.cfg addr) || d.writtenBack),
            invalidated := s.cfg.icacheLine.isNone } ∨
      (e ∈ s.stored ∧ e.addr ≠ wordOf (dataAddr s.cfg addr))) ∧ s.ViewsAfter t io addr width ∧
    s.BusAfter t io addr
      { write := true, addr := dataAddr s.cfg addr, width := width,
        value := (v.setWidth (8 * width.bytes)).setWidth 32 }

/-- Every byte of an access is memory. -/
def InMemory (c : Config) (p : Word) (width : AccessWidth) : Prop :=
  ∀ i, i < width.bytes → kindAt c (p + BitVec.ofNat 32 i) = some .memory

/-- Every byte of an access is mapped to memory or to a peripheral (20_memory.md R62). -/
def AllMapped (c : Config) (p : Word) (width : AccessWidth) : Prop :=
  ∀ i, i < width.bytes → kindAt c (p + BitVec.ofNat 32 i) ≠ none

/-- Natural alignment in numbers (20_memory.md R66). -/
def Aligned (a : Word) (width : AccessWidth) : Prop := a.toNat % width.bytes = 0

/-- A load instruction as a whole: refused where the address is not aligned, a fault where a byte is
mapped to nothing, refused where it mixes the two ways to memory, else the load (20_memory.md R66, R62, R77,
R70). -/
def LoadsOrStops (o : Result) (s : State) (io : Bool) (addr : Word) (width : AccessWidth) (raw : Word) (r : Reg)
    (v : Word) : Prop :=
  (Aligned addr width → AllMapped s.cfg (dataAddr s.cfg addr) width → ¬ s.Mixes io addr width →
    Loads o s io addr width raw r v) ∧
  (¬ Aligned addr width → o = .refused (.misalignedData addr)) ∧
  (Aligned addr width → ¬ AllMapped s.cfg (dataAddr s.cfg addr) width → o = .fault (.unmappedAddress addr)) ∧
  (Aligned addr width → AllMapped s.cfg (dataAddr s.cfg addr) width → s.Mixes io addr width →
    o = .refused (.mixedAccess addr))

/-- A store instruction as a whole, in the same four cases (20_memory.md R66, R62, R77, R71). -/
def StoresOrStops (o : Result) (s : State) (io : Bool) (addr : Word) (width : AccessWidth) (v : Word) : Prop :=
  (Aligned addr width → AllMapped s.cfg (dataAddr s.cfg addr) width → ¬ s.Mixes io addr width →
    Stores o s io addr width v) ∧
  (¬ Aligned addr width → o = .refused (.misalignedData addr)) ∧
  (Aligned addr width → ¬ AllMapped s.cfg (dataAddr s.cfg addr) width → o = .fault (.unmappedAddress addr)) ∧
  (Aligned addr width → AllMapped s.cfg (dataAddr s.cfg addr) width → s.Mixes io addr width →
    o = .refused (.mixedAccess addr))

/-! ### Transfers of control -/

/-- A jump as a whole: to an aligned target, else refused (45_program_control.md R229). -/
def JumpsOrStops (o : Result) (s : State) (target : Word) : Prop :=
  (target.toNat % 4 = 0 → MovesTo o s target) ∧ (target.toNat % 4 ≠ 0 → o = .refused (.misalignedPc target))

/-- A conditional branch as a whole: where the condition does not hold the target is not examined
(45_program_control.md R235). -/
def BranchesIf (o : Result) (s : State) (condition : Prop) (target : Word) : Prop :=
  (condition → JumpsOrStops o s target) ∧ (¬ condition → MovesTo o s (s.pc + 4#32))

/-- The result returns to `target` with `status` at `b`, and that is its whole effect but for the
debug mode bit, which becomes `debug` (60_exceptions.md R297, R313). -/
def Returns (o : Result) (s : State) (target : Word) (b : StatusBits) (debug : Bool) : Prop :=
  ∃ t, o = .next t ∧ t.pc = target ∧ t.status = b ∧ t.inDebug = debug ∧ s.SameRegs t ∧ t.cfg = s.cfg ∧
    t.estatus = s.estatus ∧ t.bstatus = s.bstatus ∧ t.ienable = s.ienable ∧ s.SameMemory t ∧ s.SameOutside t

/-- The result goes on at the next word and changes nothing but which stored words are fit to be fetched and
which bytes are recorded as accessed (20_memory.md R89, R77). -/
def OnlyMarks (o : Result) (s : State) (stored : List StoredWord) (views : List ViewedByte) : Prop :=
  ∃ t, o = .next t ∧ t.pc = s.pc + 4#32 ∧ s.SameRegs t ∧ s.SameControl t ∧ s.SameMemory t ∧ t.irq = s.irq ∧
    t.inputs = s.inputs ∧ t.custom = s.custom ∧ t.ioLog = s.ioLog ∧ t.draws = s.draws ∧ t.stored = stored ∧
    t.views = views

/-- The result reads a two-bit status register into `r`: the reserved bits are those of a free value
(10_state.md R37). -/
def ReadsStatus (o : Result) (s : State) (r : Reg) (b : StatusBits) : Prop :=
  ∃ t v, o = .next t ∧ t.pc = s.pc + 4#32 ∧ s.RegsAfter t r v ∧ v.getLsbD 0 = b.pie ∧ v.getLsbD 1 = b.u ∧
    v.extractLsb' 2 30 = (Config.freeWord s.draws).extractLsb' 2 30 ∧ s.SameControl t ∧ s.SameMemory t ∧
    t.irq = s.irq ∧ t.inputs = s.inputs ∧ t.custom = s.custom ∧ t.ioLog = s.ioLog ∧ t.stored = s.stored ∧
    t.views = s.views ∧ t.draws = s.draws + 1

/-- The result writes the control registers as given, goes on at the next word, and does nothing else. -/
def WritesControl (o : Result) (s : State) (status estatus bstatus : StatusBits) (ienable : Word) : Prop :=
  ∃ t, o = .next t ∧ t.pc = s.pc + 4#32 ∧ t.status = status ∧ t.estatus = estatus ∧ t.bstatus = bstatus ∧
    t.ienable = ienable ∧ t.cfg = s.cfg ∧ t.inDebug = s.inDebug ∧ s.SameRegs t ∧ s.SameMemory t ∧ s.SameOutside t

/-! ### Classes of instructions -/

/-- The six instructions that user mode may not run (60_exceptions.md R304). -/
def isPrivileged : Instr → Bool
  | .rdctl _ _ | .wrctl _ _ | .bret _ | .eret | .initd _ _ | .initi _ => true
  | _ => false

/-- Whether a core lacks the instruction (47_custom_nop_unimplemented.md R272). -/
def absentOn (c : Config) : Instr → Bool
  | .mul _ _ _ => c.unimplemented.mul
  | .muli _ _ _ => c.unimplemented.muli
  | .mulxss _ _ _ => c.unimplemented.mulxss
  | .mulxsu _ _ _ => c.unimplemented.mulxsu
  | .mulxuu _ _ _ => c.unimplemented.mulxuu
  | .div _ _ _ => c.unimplemented.div
  | .divu _ _ _ => c.unimplemented.divu
  | _ => false

/-- What an io load or store moves: whether it writes, and its width (20_memory.md R72, R74). -/
def ioForm : Instr → Option (Bool × AccessWidth)
  | .ldwio _ _ _ => some (false, .word)
  | .ldhio _ _ _ | .ldhuio _ _ _ => some (false, .half)
  | .ldbio _ _ _ | .ldbuio _ _ _ => some (false, .byte)
  | .stwio _ _ _ => some (true, .word)
  | .sthio _ _ _ => some (true, .half)
  | .stbio _ _ _ => some (true, .byte)
  | _ => none

/-- The eight plain loads and stores (20_memory.md R74). -/
def isPlainAccess : Instr → Bool
  | .ldw _ _ _ | .ldh _ _ _ | .ldhu _ _ _ | .ldb _ _ _ | .ldbu _ _ _ | .stw _ _ _ | .sth _ _ _ | .stb _ _ _ => true
  | _ => false

/-- The store instruction of a width, plain or io (40_data_transfer.md R132 to R146). -/
def storeForm (io : Bool) (width : AccessWidth) (rB : Reg) (imm16 : Half) (rA : Reg) : Instr :=
  match io, width with
  | false, .byte => .stb rB imm16 rA
  | false, .half => .sth rB imm16 rA
  | false, .word => .stw rB imm16 rA
  | true, .byte => .stbio rB imm16 rA
  | true, .half => .sthio rB imm16 rA
  | true, .word => .stwio rB imm16 rA

/-- Running instructions one after another, as long as each answers. -/
def runAll : List Instr → State → Result
  | [], s => .next s
  | i :: rest, s => andThen (exec i s) (runAll rest)

/-! ### Encodings in numbers (30_encoding.md R101 to R103) -/

/-- The I-type word with its fields in their places. -/
def iType (a b : Reg) (imm16 : Half) (op : Nat) : Nat := a.val * 2 ^ 27 + b.val * 2 ^ 22 + imm16.toNat * 2 ^ 6 + op

/-- The R-type word with its fields in their places. -/
def rType (a b c : Reg) (opx imm5 : Nat) : Nat :=
  a.val * 2 ^ 27 + b.val * 2 ^ 22 + c.val * 2 ^ 17 + opx * 2 ^ 11 + imm5 * 2 ^ 6 + 0x3A

/-- The assembler emits the one word `n` for the instruction. -/
abbrev HasWord (i : Instr) (n : Nat) : Prop := (encode i).map BitVec.toNat = [n]

/-! ### The invariant -/

/-- Every listed address lies in a memory region (20_memory.md R60). -/
def Memory.inside (c : Config) (m : Memory) : Prop :=
  ∀ e ∈ m, kindAt c (BitVec.ofNat 32 e.1) = some .memory

/-- A sound state: memory in its canonical form and inside the memory regions; `pc` a multiple of 4
(10_state.md R27); on a core without user mode `U`, `EU` and `BU` are 0 (60_exceptions.md R288);
stored words are recorded under word addresses, once each (20_memory.md R89); no byte is recorded as accessed
both ways (20_memory.md R77). -/
structure State.Sound (s : State) : Prop where
  wf : s.mem.wf
  inside : s.mem.inside s.cfg
  pcAligned : s.pc.toNat % 4 = 0
  noUserMode : s.cfg.hasUserMode = false → s.status.u = false ∧ s.estatus.u = false ∧ s.bstatus.u = false
  storedAligned : ∀ e ∈ s.stored, e.addr.toNat % 4 = 0
  storedOnce : (s.stored.map (·.addr)).Nodup
  oneView : ∀ v ∈ s.views, ∀ w ∈ s.views, v.addr = w.addr → v = w

end Sys2Proof.Machine
end

