-- ==== Sys2Proof/WellFormed.lean ====
section
/-! DEFINITION. Which terms are instructions the assembler accepts (the operand ranges of
30_encoding.md R120; every other operand range is carried by the operand's type), and which
configurations system generation can produce (00_scope.md R5). -/

namespace Sys2Proof

/-- The operand ranges of 30_encoding.md R120 that a field's width does not already say: the
`IMM16+1` expansions need a successor that fits the field, `subi` a negation that does. -/
def Instr.wellFormed : Instr → Bool
  | .ldbu _ _ _ => true
  | .addi _ _ _ => true
  | .stb _ _ _ => true
  | .br _ => true
  | .ldb _ _ _ => true
  | .cmpgei _ _ _ => true
  | .ldhu _ _ _ => true
  | .andi _ _ _ => true
  | .sth _ _ _ => true
  | .bge _ _ _ => true
  | .ldh _ _ _ => true
  | .cmplti _ _ _ => true
  | .ori _ _ _ => true
  | .stw _ _ _ => true
  | .blt _ _ _ => true
  | .ldw _ _ _ => true
  | .cmpnei _ _ _ => true
  | .xori _ _ _ => true
  | .bne _ _ _ => true
  | .cmpeqi _ _ _ => true
  | .ldbuio _ _ _ => true
  | .muli _ _ _ => true
  | .stbio _ _ _ => true
  | .beq _ _ _ => true
  | .ldbio _ _ _ => true
  | .cmpgeui _ _ _ => true
  | .ldhuio _ _ _ => true
  | .andhi _ _ _ => true
  | .sthio _ _ _ => true
  | .bgeu _ _ _ => true
  | .ldhio _ _ _ => true
  | .cmpltui _ _ _ => true
  | .initd _ _ => true
  | .orhi _ _ _ => true
  | .stwio _ _ _ => true
  | .bltu _ _ _ => true
  | .ldwio _ _ _ => true
  | .flushd _ _ => true
  | .xorhi _ _ _ => true
  | .call _ => true
  | .custom _ _ _ _ => true
  | .eret => true
  | .roli _ _ _ => true
  | .rol _ _ _ => true
  | .flushp => true
  | .ret => true
  | .nor _ _ _ => true
  | .mulxuu _ _ _ => true
  | .cmpge _ _ _ => true
  | .bret _ => true
  | .ror _ _ _ => true
  | .flushi _ => true
  | .jmp _ => true
  | .and _ _ _ => true
  | .cmplt _ _ _ => true
  | .slli _ _ _ => true
  | .sll _ _ _ => true
  | .or _ _ _ => true
  | .mulxsu _ _ _ => true
  | .cmpne _ _ _ => true
  | .srli _ _ _ => true
  | .srl _ _ _ => true
  | .callr _ => true
  | .xor _ _ _ => true
  | .mulxss _ _ _ => true
  | .cmpeq _ _ _ => true
  | .divu _ _ _ => true
  | .div _ _ _ => true
  | .rdctl _ _ => true
  | .mul _ _ _ => true
  | .cmpgeu _ _ _ => true
  | .initi _ => true
  | .trap => true
  | .wrctl _ _ => true
  | .cmpltu _ _ _ => true
  | .add _ _ _ => true
  | .brk _ => true
  | .sync => true
  | .sub _ _ _ => true
  | .srai _ _ _ => true
  | .sra _ _ _ => true
  | .mov _ _ => true
  | .movhi _ _ => true
  | .movi _ _ => true
  | .movui _ _ => true
  | .movia _ _ => true
  | .nop => true
  | .subi _ _ imm => decide (-32767 ≤ imm) && decide (imm ≤ 32768)
  | .cmpgt _ _ _ => true
  | .cmpgtu _ _ _ => true
  | .cmple _ _ _ => true
  | .cmpleu _ _ _ => true
  | .cmpgti _ _ imm16 => imm16 != 0x7FFF#16
  | .cmpgtui _ _ imm16 => imm16 != 0xFFFF#16
  | .cmplei _ _ imm16 => imm16 != 0x7FFF#16
  | .cmpleui _ _ imm16 => imm16 != 0xFFFF#16
  | .bgt _ _ _ => true
  | .bgtu _ _ _ => true
  | .ble _ _ _ => true
  | .bleu _ _ _ => true

/-- Whether two regions share no address (92 D4: `MEM_MAP` is a set of disjoint regions). -/
def Region.disjoint (x y : Region) : Bool :=
  decide (x.base.toNat + x.size ≤ y.base.toNat) || decide (y.base.toNat + y.size ≤ x.base.toNat)

/-- Whether no region of a map meets a later one. -/
def disjointRegions : List Region → Bool
  | [] => true
  | x :: rest => rest.all x.disjoint && disjointRegions rest

/-- A configuration of 00_scope.md R5: `ADDR_WIDTH` is at most 32 and exactly 31 under
`BIT31_BYPASS` (20_memory.md R82); the regions of `MEM_MAP` are disjoint and lie in 32 bits. -/
def Config.wellFormed (c : Config) : Bool :=
  decide (c.addrWidth ≤ 32) && (!c.bit31Bypass || c.addrWidth == 31) &&
    c.memMap.all (fun x => decide (x.base.toNat + x.size ≤ 2 ^ 32)) && disjointRegions c.memMap

end Sys2Proof
end

