-- ==== Sys2Proof/Certificates/Slice0/Obligations.lean ====
section
/-! DEFINITION. The statements for the provers, one definition each; OBLIGATIONS.json lists them. -/

open Sys2Proof Sys2Proof.Machine

/-- For every state: r0 reads 0; a write to r0 changes nothing; after a write of v to register r, register q
reads v if q = r and q is not r0, and as before otherwise. An instruction whose destination is r0 still has
its other effects: an io load into r0, where an io load answers at all, makes its transfer on the bus, and
call writes r31. (10_state.md R21) -/
def Obligations.RegisterFile : Prop :=
  ∀ (s : State) (r q : Reg) (v : Word) (imm16 : Half) (rA : Reg) (addr : Word),
    addr = s.readReg rA + imm16.signExtend 32 →
      s.readReg 0 = 0#32 ∧ s.writeReg 0 v = s ∧
      (s.writeReg r v).readReg q = (if q = r ∧ q ≠ 0 then v else s.readReg q) ∧
      (Aligned addr .word → AllMapped s.cfg (dataAddr s.cfg addr) .word → ¬ s.Mixes true addr .word →
        ∃ t x, exec (.ldwio 0 imm16 rA) s = .next t ∧ s.SameRegs t ∧ t.ioLog = x :: s.ioLog) ∧
      ∀ imm26, ∃ t, exec (.call imm26) s = .next t ∧ t.readReg 31 = s.pc + 4#32

/-- In a memory of canonical form, after writing byte b at address a, reading a gives b and reading any other
address gives what it gave before. (20_memory.md R60; 20_memory.md R71; 10_state.md R51) -/
def Obligations.MemoryReadAfterWrite : Prop :=
  ∀ (m : Memory) (a x : Word) (b : Byte), m.wf → (m.write a b).read x = if x = a then b else m.read x

/-- Writing a byte, storing a value of any width, and the writes of other bus masters keep memory a strictly
rising list without entries equal to the unlisted byte, and keep every entry inside a memory region.
(20_memory.md R60; 20_memory.md R71; 10_state.md R51) -/
def Obligations.MemoryKeepsCanonicalForm : Prop :=
  ∀ (c : Config) (m : Memory) (a v : Word) (b : Byte) (width : AccessWidth) (l : List (Word × Byte)), m.wf →
    (m.write a b).wf ∧ (storeValue c m a v width).wf ∧ (externalWrites c m l).wf ∧
    (m.inside c → (storeValue c m a v width).inside c ∧ (externalWrites c m l).inside c)

/-- For every state and all registers (r0 included): the R-type word with the rule's OPX; exec answers a next
state in which rC holds the bitwise and, or, exclusive or, or complement of or of rA and rB (unless rC is
r0), pc is pc + 4, and every other register, the control registers, memory and everything else is as before.
(41_arith_logic.md R151; 41_arith_logic.md R152; 41_arith_logic.md R153; 41_arith_logic.md R154) -/
def Obligations.LogicalRegisterForms : Prop :=
  ∀ (s : State) (rC rA rB : Reg),
      HasWord (.and rC rA rB) (rType rA rB rC 0x0E 0) ∧
      WritesOnly (exec (.and rC rA rB) s) s rC (s.readReg rA &&& s.readReg rB) ∧
      HasWord (.or rC rA rB) (rType rA rB rC 0x16 0) ∧
      WritesOnly (exec (.or rC rA rB) s) s rC (s.readReg rA ||| s.readReg rB) ∧
      HasWord (.xor rC rA rB) (rType rA rB rC 0x1E 0) ∧
      WritesOnly (exec (.xor rC rA rB) s) s rC (s.readReg rA ^^^ s.readReg rB) ∧
      HasWord (.nor rC rA rB) (rType rA rB rC 0x06 0) ∧
      WritesOnly (exec (.nor rC rA rB) s) s rC (~~~(s.readReg rA ||| s.readReg rB))

/-- For every state, all registers and immediates: the I-type word with the rule's OP; exec answers a next state
in which rB holds rA combined with the zero-extended immediate (andi, ori, xori) or with the immediate in
the upper half (andhi, orhi, xorhi), and nothing else but pc + 4 changes. (41_arith_logic.md R155;
41_arith_logic.md R156; 41_arith_logic.md R157; 41_arith_logic.md R158; 41_arith_logic.md R159;
41_arith_logic.md R160) -/
def Obligations.LogicalImmediateForms : Prop :=
  ∀ (s : State) (rB rA : Reg) (imm16 : Half),
      HasWord (.andi rB rA imm16) (iType rA rB imm16 0x0C) ∧
      WritesOnly (exec (.andi rB rA imm16) s) s rB (s.readReg rA &&& imm16.setWidth 32) ∧
      HasWord (.ori rB rA imm16) (iType rA rB imm16 0x14) ∧
      WritesOnly (exec (.ori rB rA imm16) s) s rB (s.readReg rA ||| imm16.setWidth 32) ∧
      HasWord (.xori rB rA imm16) (iType rA rB imm16 0x1C) ∧
      WritesOnly (exec (.xori rB rA imm16) s) s rB (s.readReg rA ^^^ imm16.setWidth 32) ∧
      HasWord (.andhi rB rA imm16) (iType rA rB imm16 0x2C) ∧
      WritesOnly (exec (.andhi rB rA imm16) s) s rB (s.readReg rA &&& (imm16 ++ 0#16 : BitVec 32)) ∧
      HasWord (.orhi rB rA imm16) (iType rA rB imm16 0x34) ∧
      WritesOnly (exec (.orhi rB rA imm16) s) s rB (s.readReg rA ||| (imm16 ++ 0#16 : BitVec 32)) ∧
      HasWord (.xorhi rB rA imm16) (iType rA rB imm16 0x3C) ∧
      WritesOnly (exec (.xorhi rB rA imm16) s) s rB (s.readReg rA ^^^ (imm16 ++ 0#16 : BitVec 32))

/-- For every state and all operands: the words of the rules (subi is the word of addi with the negated
operand); exec answers a next state in which the destination holds the sum or difference modulo 2^32 of the
source and the register or sign-extended immediate; subi is stated for the operands it accepts, -32767 to
32768. (41_arith_logic.md R161; 41_arith_logic.md R162; 41_arith_logic.md R166; 41_arith_logic.md R167) -/
def Obligations.AddAndSubtract : Prop :=
  ∀ (s : State) (rC rA rB : Reg) (imm16 : Half) (k : Int), -32767 ≤ k → k ≤ 32768 →
      HasWord (.add rC rA rB) (rType rA rB rC 0x31 0) ∧
      WritesOnly (exec (.add rC rA rB) s) s rC (BitVec.ofNat 32 ((s.readReg rA).toNat + (s.readReg rB).toNat)) ∧
      HasWord (.sub rC rA rB) (rType rA rB rC 0x39 0) ∧
      WritesOnly (exec (.sub rC rA rB) s) s rC (BitVec.ofInt 32 ((s.readReg rA).toInt - (s.readReg rB).toInt)) ∧
      HasWord (.addi rB rA imm16) (iType rA rB imm16 0x04) ∧
      WritesOnly (exec (.addi rB rA imm16) s) s rB (BitVec.ofInt 32 ((s.readReg rA).toInt + imm16.toInt)) ∧
      encode (.subi rB rA k) = encode (.addi rB rA (BitVec.ofInt 16 (-k))) ∧
      WritesOnly (exec (.subi rB rA k) s) s rB (BitVec.ofInt 32 ((s.readReg rA).toInt - k))

/-- For every state and all operands: the word; where the core implements the instruction, exec answers a next
state in which the destination holds the product modulo 2^32 and nothing else but pc + 4 changes; where it
does not, the exception is taken with ea = pc + 4 and no register of the instruction is written.
(41_arith_logic.md R163; 41_arith_logic.md R168) -/
def Obligations.MultiplyLow : Prop :=
  ∀ (s : State) (rC rA rB : Reg) (imm16 : Half),
      HasWord (.mul rC rA rB) (rType rA rB rC 0x27 0) ∧
      (if s.cfg.unimplemented.mul then TakesException (exec (.mul rC rA rB) s) s (s.pc + 4#32)
        else WritesOnly (exec (.mul rC rA rB) s) s rC (BitVec.ofInt 32 ((s.readReg rA).toInt * (s.readReg rB).toInt))) ∧
      HasWord (.muli rB rA imm16) (iType rA rB imm16 0x24) ∧
      (if s.cfg.unimplemented.muli then TakesException (exec (.muli rB rA imm16) s) s (s.pc + 4#32)
        else WritesOnly (exec (.muli rB rA imm16) s) s rB (BitVec.ofInt 32 ((s.readReg rA).toInt * imm16.toInt)))

/-- For every state and all operands: the word; where implemented, rC holds bits 63..32 of the exact product,
that is the product divided by 2^32 rounded down, of both operands signed, both unsigned, or rA signed and
rB unsigned, and nothing else but pc + 4 changes; where not implemented, the exception is taken.
(41_arith_logic.md R169; 41_arith_logic.md R170; 41_arith_logic.md R171) -/
def Obligations.MultiplyHigh : Prop :=
  ∀ (s : State) (rC rA rB : Reg),
      HasWord (.mulxss rC rA rB) (rType rA rB rC 0x1F 0) ∧
      (if s.cfg.unimplemented.mulxss then TakesException (exec (.mulxss rC rA rB) s) s (s.pc + 4#32)
        else WritesOnly (exec (.mulxss rC rA rB) s) s rC (BitVec.ofInt 32 ((s.readReg rA).toInt * (s.readReg rB).toInt / 2 ^ 32))) ∧
      HasWord (.mulxuu rC rA rB) (rType rA rB rC 0x07 0) ∧
      (if s.cfg.unimplemented.mulxuu then TakesException (exec (.mulxuu rC rA rB) s) s (s.pc + 4#32)
        else WritesOnly (exec (.mulxuu rC rA rB) s) s rC (BitVec.ofNat 32 ((s.readReg rA).toNat * (s.readReg rB).toNat / 2 ^ 32))) ∧
      HasWord (.mulxsu rC rA rB) (rType rA rB rC 0x17 0) ∧
      (if s.cfg.unimplemented.mulxsu then TakesException (exec (.mulxsu rC rA rB) s) s (s.pc + 4#32)
        else WritesOnly (exec (.mulxsu rC rA rB) s) s rC (BitVec.ofInt 32 ((s.readReg rA).toInt * ((s.readReg rB).toNat : Int) / 2 ^ 32)))

/-- For every state and all registers: the word; on a core without div the exception is taken; for a zero
divisor, and for -2^31 divided by -1, rC holds a fresh free value (log entries 7 and 16) and no exception is
taken; otherwise rC holds a value whose signed reading is the exact quotient rounded toward zero, and
nothing else but pc + 4 changes. (41_arith_logic.md R164) -/
def Obligations.DivideSigned : Prop :=
  ∀ (s : State) (rC rA rB : Reg),
    HasWord (.div rC rA rB) (rType rA rB rC 0x25 0) ∧
    if s.cfg.unimplemented.div then TakesException (exec (.div rC rA rB) s) s (s.pc + 4#32)
    else if s.readReg rB = 0#32 ∨ (s.readReg rA = 0x80000000#32 ∧ s.readReg rB = 0xFFFFFFFF#32) then
      WritesFree (exec (.div rC rA rB) s) s rC
    else ∃ q : Word, q.toInt = Int.tdiv (s.readReg rA).toInt (s.readReg rB).toInt ∧ WritesOnly (exec (.div rC rA rB) s) s rC q

/-- For every state and all registers: the word; on a core without divu the exception is taken; for a zero
divisor rC holds a fresh free value (log entries 7 and 16) and no exception is taken; otherwise rC holds the
unsigned quotient rounded down and nothing else but pc + 4 changes. (41_arith_logic.md R165) -/
def Obligations.DivideUnsigned : Prop :=
  ∀ (s : State) (rC rA rB : Reg),
    HasWord (.divu rC rA rB) (rType rA rB rC 0x24 0) ∧
    if s.cfg.unimplemented.divu then TakesException (exec (.divu rC rA rB) s) s (s.pc + 4#32)
    else if s.readReg rB = 0#32 then WritesFree (exec (.divu rC rA rB) s) s rC
    else ∃ q : Word, q.toNat = (s.readReg rA).toNat / (s.readReg rB).toNat ∧ WritesOnly (exec (.divu rC rA rB) s) s rC q

/-- For every state and all operands: each move is the word, or for movia the two words, of its expansion, and
writes its destination with the register, the immediate in the upper half, sign-extended or zero-extended,
or the label; movia goes on at pc + 8, the others at pc + 4; nothing else changes. (42_move.md R180;
42_move.md R181; 42_move.md R182; 42_move.md R183; 42_move.md R184) -/
def Obligations.Moves : Prop :=
  ∀ (s : State) (rC rA rB : Reg) (imm16 : Half) (label : Word),
    encode (.mov rC rA) = encode (.add rC rA 0) ∧ WritesOnly (exec (.mov rC rA) s) s rC (s.readReg rA) ∧
    encode (.movhi rB imm16) = encode (.orhi rB 0 imm16) ∧ WritesOnly (exec (.movhi rB imm16) s) s rB (imm16 ++ 0#16 : BitVec 32) ∧
    encode (.movi rB imm16) = encode (.addi rB 0 imm16) ∧
      WritesOnly (exec (.movi rB imm16) s) s rB (BitVec.ofInt 32 imm16.toInt) ∧
    encode (.movui rB imm16) = encode (.ori rB 0 imm16) ∧
      WritesOnly (exec (.movui rB imm16) s) s rB (BitVec.ofNat 32 imm16.toNat) ∧
    encode (.movia rB label) = encode (.orhi rB 0 (hiadj label)) ++ encode (.addi rB rB (lo label)) ∧
      Transfers (exec (.movia rB label) s) s (s.pc + 8#32) rB label

/-- For every state and all registers: the word, or the word of the expansion for cmpgt, cmpgtu, cmple, cmpleu;
exec answers a next state in which rC holds 1 if rA stands in the named signed or unsigned relation to rB
and 0 if not, and nothing else but pc + 4 changes. (43_compare.md R191; 43_compare.md R192; 43_compare.md
R193; 43_compare.md R194; 43_compare.md R195; 43_compare.md R196; 43_compare.md R197; 43_compare.md R198;
43_compare.md R199; 43_compare.md R200) -/
def Obligations.CompareRegisters : Prop :=
  ∀ (s : State) (rC rA rB : Reg),
      HasWord (.cmpeq rC rA rB) (rType rA rB rC 0x20 0) ∧
      WritesOnly (exec (.cmpeq rC rA rB) s) s rC (if s.readReg rA = s.readReg rB then 1#32 else 0#32) ∧
      HasWord (.cmpne rC rA rB) (rType rA rB rC 0x18 0) ∧
      WritesOnly (exec (.cmpne rC rA rB) s) s rC (if s.readReg rA ≠ s.readReg rB then 1#32 else 0#32) ∧
      HasWord (.cmpge rC rA rB) (rType rA rB rC 0x08 0) ∧
      WritesOnly (exec (.cmpge rC rA rB) s) s rC (if (s.readReg rB).toInt ≤ (s.readReg rA).toInt then 1#32 else 0#32) ∧
      HasWord (.cmpgeu rC rA rB) (rType rA rB rC 0x28 0) ∧
      WritesOnly (exec (.cmpgeu rC rA rB) s) s rC (if (s.readReg rB).toNat ≤ (s.readReg rA).toNat then 1#32 else 0#32) ∧
      encode (.cmpgt rC rA rB) = encode (.cmplt rC rB rA) ∧
      WritesOnly (exec (.cmpgt rC rA rB) s) s rC (if (s.readReg rB).toInt < (s.readReg rA).toInt then 1#32 else 0#32) ∧
      encode (.cmpgtu rC rA rB) = encode (.cmpltu rC rB rA) ∧
      WritesOnly (exec (.cmpgtu rC rA rB) s) s rC (if (s.readReg rB).toNat < (s.readReg rA).toNat then 1#32 else 0#32) ∧
      encode (.cmple rC rA rB) = encode (.cmpge rC rB rA) ∧
      WritesOnly (exec (.cmple rC rA rB) s) s rC (if (s.readReg rA).toInt ≤ (s.readReg rB).toInt then 1#32 else 0#32) ∧
      encode (.cmpleu rC rA rB) = encode (.cmpgeu rC rB rA) ∧
      WritesOnly (exec (.cmpleu rC rA rB) s) s rC (if (s.readReg rA).toNat ≤ (s.readReg rB).toNat then 1#32 else 0#32) ∧
      HasWord (.cmplt rC rA rB) (rType rA rB rC 0x10 0) ∧
      WritesOnly (exec (.cmplt rC rA rB) s) s rC (if (s.readReg rA).toInt < (s.readReg rB).toInt then 1#32 else 0#32) ∧
      HasWord (.cmpltu rC rA rB) (rType rA rB rC 0x30 0) ∧
      WritesOnly (exec (.cmpltu rC rA rB) s) s rC (if (s.readReg rA).toNat < (s.readReg rB).toNat then 1#32 else 0#32)

/-- For every state, all registers and every immediate the instruction accepts (any but 0x7FFF for cmpgti and
cmplei, any but 0xFFFF for cmpgtui and cmpleui): the word, or the word of the expansion with the immediate
increased by one for cmpgti, cmpgtui, cmplei, cmpleui; exec answers a next state in which rB holds 1 if rA
stands in the relation to the immediate, sign-extended for the signed relations and the two equalities and
zero-extended for the unsigned ones, and 0 if not. (43_compare.md R201; 43_compare.md R202; 43_compare.md
R203; 43_compare.md R204; 43_compare.md R205; 43_compare.md R206; 43_compare.md R207; 43_compare.md R208;
43_compare.md R209; 43_compare.md R210) -/
def Obligations.CompareImmediates : Prop :=
  ∀ (s : State) (rB rA : Reg) (imm16 : Half),
      HasWord (.cmpeqi rB rA imm16) (iType rA rB imm16 0x20) ∧
      WritesOnly (exec (.cmpeqi rB rA imm16) s) s rB (if (s.readReg rA).toInt = imm16.toInt then 1#32 else 0#32) ∧
      HasWord (.cmpnei rB rA imm16) (iType rA rB imm16 0x18) ∧
      WritesOnly (exec (.cmpnei rB rA imm16) s) s rB (if (s.readReg rA).toInt ≠ imm16.toInt then 1#32 else 0#32) ∧
      HasWord (.cmpgei rB rA imm16) (iType rA rB imm16 0x08) ∧
      WritesOnly (exec (.cmpgei rB rA imm16) s) s rB (if imm16.toInt ≤ (s.readReg rA).toInt then 1#32 else 0#32) ∧
      HasWord (.cmpgeui rB rA imm16) (iType rA rB imm16 0x28) ∧
      WritesOnly (exec (.cmpgeui rB rA imm16) s) s rB (if imm16.toNat ≤ (s.readReg rA).toNat then 1#32 else 0#32) ∧
      (imm16 ≠ 0x7FFF#16 → encode (.cmpgti rB rA imm16) = encode (.cmpgei rB rA (imm16 + 1)) ∧
      WritesOnly (exec (.cmpgti rB rA imm16) s) s rB (if imm16.toInt < (s.readReg rA).toInt then 1#32 else 0#32)) ∧
      (imm16 ≠ 0xFFFF#16 → encode (.cmpgtui rB rA imm16) = encode (.cmpgeui rB rA (imm16 + 1)) ∧
      WritesOnly (exec (.cmpgtui rB rA imm16) s) s rB (if imm16.toNat < (s.readReg rA).toNat then 1#32 else 0#32)) ∧
      (imm16 ≠ 0x7FFF#16 → encode (.cmplei rB rA imm16) = encode (.cmplti rB rA (imm16 + 1)) ∧
      WritesOnly (exec (.cmplei rB rA imm16) s) s rB (if (s.readReg rA).toInt ≤ imm16.toInt then 1#32 else 0#32)) ∧
      (imm16 ≠ 0xFFFF#16 → encode (.cmpleui rB rA imm16) = encode (.cmpltui rB rA (imm16 + 1)) ∧
      WritesOnly (exec (.cmpleui rB rA imm16) s) s rB (if (s.readReg rA).toNat ≤ imm16.toNat then 1#32 else 0#32)) ∧
      HasWord (.cmplti rB rA imm16) (iType rA rB imm16 0x10) ∧
      WritesOnly (exec (.cmplti rB rA imm16) s) s rB (if (s.readReg rA).toInt < imm16.toInt then 1#32 else 0#32) ∧
      HasWord (.cmpltui rB rA imm16) (iType rA rB imm16 0x30) ∧
      WritesOnly (exec (.cmpltui rB rA imm16) s) s rB (if (s.readReg rA).toNat < imm16.toNat then 1#32 else 0#32)

/-- For every state and all operands, with n the low five bits of rB: the word; exec answers a next state in
which rC holds rA rotated left by n (rol), right by n (ror) or left by the immediate (roli); a count of 0
copies rA; nothing else but pc + 4 changes. (44_shift_rotate.md R216; 44_shift_rotate.md R217;
44_shift_rotate.md R218) -/
def Obligations.Rotates : Prop :=
  ∀ (s : State) (rC rA rB : Reg) (imm5 : BitVec 5) (n : Nat), n = (s.readReg rB).toNat % 32 →
      HasWord (.rol rC rA rB) (rType rA rB rC 0x03 0) ∧
      WritesOnly (exec (.rol rC rA rB) s) s rC ((s.readReg rA <<< n) ||| (s.readReg rA >>> (32 - n))) ∧
      HasWord (.ror rC rA rB) (rType rA rB rC 0x0B 0) ∧
      WritesOnly (exec (.ror rC rA rB) s) s rC ((s.readReg rA >>> n) ||| (s.readReg rA <<< (32 - n))) ∧
      HasWord (.roli rC rA imm5) (rType rA 0 rC 0x02 imm5.toNat) ∧
      WritesOnly (exec (.roli rC rA imm5) s) s rC ((s.readReg rA <<< imm5.toNat) ||| (s.readReg rA >>> (32 - imm5.toNat)))

/-- For every state and all operands, with n the low five bits of rB or the immediate: the word; exec answers a
next state in which rC holds rA times 2^n modulo 2^32 (left), the unsigned rA divided by 2^n rounded down
(logical right) or the signed rA divided by 2^n rounded down (arithmetic right); nothing else but pc + 4
changes. (44_shift_rotate.md R219; 44_shift_rotate.md R220; 44_shift_rotate.md R221; 44_shift_rotate.md
R222; 44_shift_rotate.md R223; 44_shift_rotate.md R224) -/
def Obligations.Shifts : Prop :=
  ∀ (s : State) (rC rA rB : Reg) (imm5 : BitVec 5) (n : Nat), n = (s.readReg rB).toNat % 32 →
      HasWord (.sll rC rA rB) (rType rA rB rC 0x13 0) ∧
      WritesOnly (exec (.sll rC rA rB) s) s rC (BitVec.ofNat 32 ((s.readReg rA).toNat * 2 ^ n)) ∧
      HasWord (.slli rC rA imm5) (rType rA 0 rC 0x12 imm5.toNat) ∧
      WritesOnly (exec (.slli rC rA imm5) s) s rC (BitVec.ofNat 32 ((s.readReg rA).toNat * 2 ^ imm5.toNat)) ∧
      HasWord (.sra rC rA rB) (rType rA rB rC 0x3B 0) ∧
      WritesOnly (exec (.sra rC rA rB) s) s rC (BitVec.ofInt 32 ((s.readReg rA).toInt / 2 ^ n)) ∧
      HasWord (.srl rC rA rB) (rType rA rB rC 0x1B 0) ∧
      WritesOnly (exec (.srl rC rA rB) s) s rC (BitVec.ofNat 32 ((s.readReg rA).toNat / 2 ^ n)) ∧
      HasWord (.srai rC rA imm5) (rType rA 0 rC 0x3A imm5.toNat) ∧
      WritesOnly (exec (.srai rC rA imm5) s) s rC (BitVec.ofInt 32 ((s.readReg rA).toInt / 2 ^ imm5.toNat)) ∧
      HasWord (.srli rC rA imm5) (rType rA 0 rC 0x1A imm5.toNat) ∧
      WritesOnly (exec (.srli rC rA imm5) s) s rC (BitVec.ofNat 32 ((s.readReg rA).toNat / 2 ^ imm5.toNat))

/-- For every state and all operands, with addr = rA + the sign-extended displacement modulo 2^32: the word;
where addr is a multiple of 4, its bytes are mapped and the access does not mix the two ways to memory, exec
answers a next state in which rB holds the four bytes at addr, the first least significant (a peripheral's
bytes are a free value, log entry 10), an io form has made exactly one transfer on the bus, and so has a
plain form under BIT31_BYPASS with bit 31 of addr set (log entry 19), while other plain accesses are not
recorded (log entry 17), the bytes of memory reached are recorded on a core with a data cache (log entry
26), and nothing else but pc + 4 changes; where addr is misaligned the step is refused, where a byte is
unmapped it faults, and on a core with a data cache an access that mixes the two ways to a byte of memory is
refused (log entry 26). (40_data_transfer.md R131; 40_data_transfer.md R133; 20_memory.md R62; 20_memory.md
R64; 20_memory.md R66; 20_memory.md R70; 20_memory.md R72; 20_memory.md R77; 20_memory.md R82) -/
def Obligations.LoadWords : Prop :=
  ∀ (s : State) (rB : Reg) (imm16 : Half) (rA : Reg) (addr : Word), addr = s.readReg rA + imm16.signExtend 32 →
    ∀ w : Word, w = s.answeredByte (dataAddr s.cfg addr) 3 ++ s.answeredByte (dataAddr s.cfg addr) 2 ++ s.answeredByte (dataAddr s.cfg addr) 1 ++
        s.answeredByte (dataAddr s.cfg addr) 0 →
      HasWord (.ldw rB imm16 rA) (iType rA rB imm16 0x17) ∧
      LoadsOrStops (exec (.ldw rB imm16 rA) s) s false addr .word (w) rB (w) ∧
      HasWord (.ldwio rB imm16 rA) (iType rA rB imm16 0x37) ∧
      LoadsOrStops (exec (.ldwio rB imm16 rA) s) s true addr .word (w) rB (w)

/-- For every state and all operands: the word; where addr is even, its bytes are mapped and the access does not
mix the two ways to memory, exec answers a next state in which rB holds the halfword at addr, little-endian,
sign-extended (ldh, ldhio) or zero-extended (ldhu, ldhuio; a peripheral's bytes are a free value, log entry
10), an io form has made exactly one transfer on the bus, and so has a plain form under BIT31_BYPASS with
bit 31 of addr set (log entry 19), while other plain accesses are not recorded (log entry 17), the bytes of
memory reached are recorded on a core with a data cache (log entry 26), and nothing else but pc + 4 changes;
where addr is misaligned the step is refused, where a byte is unmapped it faults, and on a core with a data
cache an access that mixes the two ways to a byte of memory is refused (log entry 26). (40_data_transfer.md
R138; 40_data_transfer.md R139; 40_data_transfer.md R144; 40_data_transfer.md R145; 20_memory.md R62;
20_memory.md R64; 20_memory.md R66; 20_memory.md R70; 20_memory.md R72; 20_memory.md R77; 20_memory.md R82) -/
def Obligations.LoadHalves : Prop :=
  ∀ (s : State) (rB : Reg) (imm16 : Half) (rA : Reg) (addr : Word), addr = s.readReg rA + imm16.signExtend 32 →
    ∀ h : Half, h = s.answeredByte (dataAddr s.cfg addr) 1 ++ s.answeredByte (dataAddr s.cfg addr) 0 →
      HasWord (.ldh rB imm16 rA) (iType rA rB imm16 0x0F) ∧
      LoadsOrStops (exec (.ldh rB imm16 rA) s) s false addr .half (h.setWidth 32) rB (h.signExtend 32) ∧
      HasWord (.ldhu rB imm16 rA) (iType rA rB imm16 0x0B) ∧
      LoadsOrStops (exec (.ldhu rB imm16 rA) s) s false addr .half (h.setWidth 32) rB (h.setWidth 32) ∧
      HasWord (.ldhio rB imm16 rA) (iType rA rB imm16 0x2F) ∧
      LoadsOrStops (exec (.ldhio rB imm16 rA) s) s true addr .half (h.setWidth 32) rB (h.signExtend 32) ∧
      HasWord (.ldhuio rB imm16 rA) (iType rA rB imm16 0x2B) ∧
      LoadsOrStops (exec (.ldhuio rB imm16 rA) s) s true addr .half (h.setWidth 32) rB (h.setWidth 32)

/-- For every state and all operands: the word; where the byte at addr is mapped and the access does not mix the
two ways to memory, exec answers a next state in which rB holds it sign-extended (ldb, ldbio) or
zero-extended (ldbu, ldbuio; a peripheral's byte is a free value, log entry 10), an io form has made exactly
one transfer on the bus, and so has a plain form under BIT31_BYPASS with bit 31 of addr set (log entry 19),
while other plain accesses are not recorded (log entry 17), the bytes of memory reached are recorded on a
core with a data cache (log entry 26), and nothing else but pc + 4 changes; there is no alignment
requirement; where the byte is unmapped the step faults, and on a core with a data cache an access that
mixes the two ways to a byte of memory is refused (log entry 26). (40_data_transfer.md R135;
40_data_transfer.md R136; 40_data_transfer.md R141; 40_data_transfer.md R142; 20_memory.md R62; 20_memory.md
R64; 20_memory.md R66; 20_memory.md R70; 20_memory.md R72; 20_memory.md R77; 20_memory.md R82) -/
def Obligations.LoadBytes : Prop :=
  ∀ (s : State) (rB : Reg) (imm16 : Half) (rA : Reg) (addr : Word), addr = s.readReg rA + imm16.signExtend 32 →
    ∀ b : Byte, b = s.answeredByte (dataAddr s.cfg addr) 0 →
      HasWord (.ldb rB imm16 rA) (iType rA rB imm16 0x07) ∧
      LoadsOrStops (exec (.ldb rB imm16 rA) s) s false addr .byte (b.setWidth 32) rB (b.signExtend 32) ∧
      HasWord (.ldbu rB imm16 rA) (iType rA rB imm16 0x03) ∧
      LoadsOrStops (exec (.ldbu rB imm16 rA) s) s false addr .byte (b.setWidth 32) rB (b.setWidth 32) ∧
      HasWord (.ldbio rB imm16 rA) (iType rA rB imm16 0x27) ∧
      LoadsOrStops (exec (.ldbio rB imm16 rA) s) s true addr .byte (b.setWidth 32) rB (b.signExtend 32) ∧
      HasWord (.ldbuio rB imm16 rA) (iType rA rB imm16 0x23) ∧
      LoadsOrStops (exec (.ldbuio rB imm16 rA) s) s true addr .byte (b.setWidth 32) rB (b.setWidth 32)

/-- For every state whose memory has the canonical form and all operands: the word; where addr is aligned for
the width, its bytes are mapped and the access does not mix the two ways to memory, exec answers a next
state in which the bytes of memory at the bus address of addr hold the low bytes of rB, the least
significant first, every other byte of memory and every register is as before (a peripheral keeps nothing,
log entry 10), an io form has made exactly one transfer on the bus, and so has a plain form under
BIT31_BYPASS with bit 31 of addr set (log entry 19), while other plain accesses are not recorded (log entry
17), the model's own record of stored words has the word once, as still in need of flushd where a data cache
may hold it or an earlier store of it (log entry 8), the bytes of memory reached are recorded on a core with
a data cache (log entry 26), and pc is pc + 4; where addr is misaligned the step is refused, where a byte is
unmapped it faults, and on a core with a data cache an access that mixes the two ways to a byte of memory is
refused (log entry 26). (40_data_transfer.md R132; 40_data_transfer.md R134; 40_data_transfer.md R137;
40_data_transfer.md R140; 40_data_transfer.md R143; 40_data_transfer.md R146; 20_memory.md R66; 20_memory.md
R71; 20_memory.md R72; 20_memory.md R77; 20_memory.md R82; 20_memory.md R88) -/
def Obligations.StoreInstructions : Prop :=
  ∀ (s : State) (rB : Reg) (imm16 : Half) (rA : Reg) (addr : Word), addr = s.readReg rA + imm16.signExtend 32 → s.mem.wf →
      HasWord (.stw rB imm16 rA) (iType rA rB imm16 0x15) ∧
      StoresOrStops (exec (.stw rB imm16 rA) s) s false addr .word (s.readReg rB) ∧
      HasWord (.stwio rB imm16 rA) (iType rA rB imm16 0x35) ∧
      StoresOrStops (exec (.stwio rB imm16 rA) s) s true addr .word (s.readReg rB) ∧
      HasWord (.stb rB imm16 rA) (iType rA rB imm16 0x05) ∧
      StoresOrStops (exec (.stb rB imm16 rA) s) s false addr .byte (s.readReg rB) ∧
      HasWord (.sth rB imm16 rA) (iType rA rB imm16 0x0D) ∧
      StoresOrStops (exec (.sth rB imm16 rA) s) s false addr .half (s.readReg rB) ∧
      HasWord (.stbio rB imm16 rA) (iType rA rB imm16 0x25) ∧
      StoresOrStops (exec (.stbio rB imm16 rA) s) s true addr .byte (s.readReg rB) ∧
      HasWord (.sthio rB imm16 rA) (iType rA rB imm16 0x2D) ∧
      StoresOrStops (exec (.sthio rB imm16 rA) s) s true addr .half (s.readReg rB)

/-- For every state and all operands: the word; call answers a next state at the address whose upper four bits
are those of pc, whose next 26 bits are the immediate and whose last two bits are 0, with pc + 4 in r31;
callr answers a next state at the old contents of rA, with pc + 4 in r31 (also for callr ra), and is refused
where rA is no multiple of 4. (45_program_control.md R230; 45_program_control.md R231) -/
def Obligations.Calls : Prop :=
  ∀ (s : State) (imm26 : BitVec 26) (rA : Reg),
    HasWord (.call imm26) (imm26.toNat * 2 ^ 6 + 0x00) ∧
    Transfers (exec (.call imm26) s) s (BitVec.ofNat 32 (s.pc.toNat / 2 ^ 28 * 2 ^ 28 + imm26.toNat * 4)) 31
      (s.pc + 4#32) ∧
    HasWord (.callr rA) (rType rA 0 31 0x1D 0) ∧
    ((s.readReg rA).toNat % 4 = 0 → Transfers (exec (.callr rA) s) s (s.readReg rA) 31 (s.pc + 4#32)) ∧
    ((s.readReg rA).toNat % 4 ≠ 0 → exec (.callr rA) s = .refused (.misalignedPc (s.readReg rA)))

/-- For every state and all operands: the word; where the target (r31, rA, or pc + 4 plus the sign-extended
immediate modulo 2^32) is a multiple of 4, exec answers a next state at the target with everything else as
before; where it is not, the step is refused. (45_program_control.md R232; 45_program_control.md R233;
45_program_control.md R234) -/
def Obligations.Jumps : Prop :=
  ∀ (s : State) (rA : Reg) (imm16 : Half),
    HasWord .ret 0xF800283A ∧ JumpsOrStops (exec .ret s) s (s.readReg 31) ∧
    HasWord (.jmp rA) (rType rA 0 0 0x0D 0) ∧ JumpsOrStops (exec (.jmp rA) s) s (s.readReg rA) ∧
    HasWord (.br imm16) (iType 0 0 imm16 0x06) ∧
      JumpsOrStops (exec (.br imm16) s) s (BitVec.ofInt 32 ((s.pc.toNat : Int) + 4 + imm16.toInt))

/-- For every state and all operands: the word, or that of the branch with its registers exchanged for bgt,
bgtu, ble, bleu; where the signed or unsigned relation holds, exec answers a next state at pc + 4 plus the
sign-extended immediate if that is a multiple of 4 and is refused if not; where it does not hold, exec
answers a next state at pc + 4 whatever the immediate; nothing else changes. (45_program_control.md R236;
45_program_control.md R237; 45_program_control.md R238; 45_program_control.md R239; 45_program_control.md
R240; 45_program_control.md R241; 45_program_control.md R242; 45_program_control.md R243;
45_program_control.md R244; 45_program_control.md R245) -/
def Obligations.ConditionalBranches : Prop :=
  ∀ (s : State) (rA rB : Reg) (imm16 : Half) (target : Word),
    target = BitVec.ofInt 32 ((s.pc.toNat : Int) + 4 + imm16.toInt) →
      HasWord (.bge rA rB imm16) (iType rA rB imm16 0x0E) ∧
      BranchesIf (exec (.bge rA rB imm16) s) s ((s.readReg rB).toInt ≤ (s.readReg rA).toInt) target ∧
      HasWord (.bgeu rA rB imm16) (iType rA rB imm16 0x2E) ∧
      BranchesIf (exec (.bgeu rA rB imm16) s) s ((s.readReg rB).toNat ≤ (s.readReg rA).toNat) target ∧
      encode (.bgt rA rB imm16) = encode (.blt rB rA imm16) ∧
      BranchesIf (exec (.bgt rA rB imm16) s) s ((s.readReg rB).toInt < (s.readReg rA).toInt) target ∧
      encode (.bgtu rA rB imm16) = encode (.bltu rB rA imm16) ∧
      BranchesIf (exec (.bgtu rA rB imm16) s) s ((s.readReg rB).toNat < (s.readReg rA).toNat) target ∧
      encode (.ble rA rB imm16) = encode (.bge rB rA imm16) ∧
      BranchesIf (exec (.ble rA rB imm16) s) s ((s.readReg rA).toInt ≤ (s.readReg rB).toInt) target ∧
      encode (.bleu rA rB imm16) = encode (.bgeu rB rA imm16) ∧
      BranchesIf (exec (.bleu rA rB imm16) s) s ((s.readReg rA).toNat ≤ (s.readReg rB).toNat) target ∧
      HasWord (.blt rA rB imm16) (iType rA rB imm16 0x16) ∧
      BranchesIf (exec (.blt rA rB imm16) s) s ((s.readReg rA).toInt < (s.readReg rB).toInt) target ∧
      HasWord (.bltu rA rB imm16) (iType rA rB imm16 0x36) ∧
      BranchesIf (exec (.bltu rA rB imm16) s) s ((s.readReg rA).toNat < (s.readReg rB).toNat) target ∧
      HasWord (.beq rA rB imm16) (iType rA rB imm16 0x26) ∧
      BranchesIf (exec (.beq rA rB imm16) s) s (s.readReg rA = s.readReg rB) target ∧
      HasWord (.bne rA rB imm16) (iType rA rB imm16 0x1E) ∧
      BranchesIf (exec (.bne rA rB imm16) s) s (s.readReg rA ≠ s.readReg rB) target

/-- For every state, user mode included: trap is the word 0x003B683A and exec answers the exception entry with
return address pc + 4: estatus holds the old status, status.U and status.PIE are 0, r29 holds pc + 4, pc is
the exception address, and every other register, bstatus, ienable, the debug mode bit, memory and everything
else is as before. (46_other_control.md R250; 60_exceptions.md R290) -/
def Obligations.SoftwareTrap : Prop :=
  ∀ s : State, HasWord .trap 0x003B683A ∧ TakesException (exec .trap s) s (s.pc + 4#32)

/-- For every state and every value of the free field: break is the word with that field (0x003DA03A for 0) and
exec answers the break entry with return address pc + 4: bstatus holds the old status, status.U and
status.PIE are 0, r30 holds pc + 4, pc is the break address, the debug mode bit is set, and estatus, ea,
ienable, every other register, memory and everything else is as before. (46_other_control.md R252;
60_exceptions.md R310) -/
def Obligations.BreakInstruction : Prop :=
  ∀ (s : State) (imm5 : BitVec 5),
    HasWord (.brk imm5) (rType 0 0 30 0x34 imm5.toNat) ∧ TakesBreak (exec (.brk imm5) s) s (s.pc + 4#32)

/-- For every state: eret is the word 0xEF80083A; in user mode the exception is taken; otherwise, where r29 is a
multiple of 4, exec answers a next state at r29 with status equal to estatus (U is 0 on a core without user
mode), and estatus, every register, bstatus, ienable, the debug mode bit and memory as before; where r29 is
no multiple of 4 the step is refused. (46_other_control.md R251; 60_exceptions.md R297) -/
def Obligations.ExceptionReturn : Prop :=
  ∀ s : State,
    HasWord .eret 0xEF80083A ∧ (s.status.u = true → TakesException (exec .eret s) s (s.pc + 4#32)) ∧
    (s.status.u = false → (s.readReg 29).toNat % 4 = 0 →
      Returns (exec .eret s) s (s.readReg 29) { pie := s.estatus.pie, u := s.estatus.u && s.cfg.hasUserMode } s.inDebug) ∧
    (s.status.u = false → (s.readReg 29).toNat % 4 ≠ 0 → exec .eret s = .refused (.misalignedPc (s.readReg 29)))

/-- For every state and every value of the ignored field: bret is the word with that field (0xF000483A for 0);
in user mode the exception is taken; otherwise, where r30 is a multiple of 4, exec answers a next state at
r30 with status equal to bstatus (U is 0 on a core without user mode) and the debug mode bit clear,
everything else as before; where r30 is no multiple of 4 the step is refused. (46_other_control.md R253) -/
def Obligations.BreakReturn : Prop :=
  ∀ (s : State) (c : BitVec 5),
    HasWord (.bret c) (rType 30 0 c.toFin 0x09 0) ∧
    (s.status.u = true → TakesException (exec (.bret c) s) s (s.pc + 4#32)) ∧
    (s.status.u = false → (s.readReg 30).toNat % 4 = 0 →
      Returns (exec (.bret c) s) s (s.readReg 30) { pie := s.bstatus.pie, u := s.bstatus.u && s.cfg.hasUserMode } false) ∧
    (s.status.u = false → (s.readReg 30).toNat % 4 ≠ 0 →
      exec (.bret c) s = .refused (.misalignedPc (s.readReg 30)))

/-- For every state and all operands: the word; in user mode the exception is taken whatever the number;
otherwise rdctl of status, estatus, bstatus gives the two stored bits with free values above them (log entry
16), of ienable its 32 bits, of ipending the inputs and ienable taken bit by bit, of cpuid the configured
value, and nothing else but pc + 4 changes; of numbers 6 to 31 it is refused. (46_other_control.md R254) -/
def Obligations.ReadControlRegister : Prop :=
  ∀ (s : State) (rC : Reg) (n : CtlNum),
    HasWord (.rdctl rC n) (rType 0 0 rC 0x26 n.val) ∧
    (s.status.u = true → TakesException (exec (.rdctl rC n) s) s (s.pc + 4#32)) ∧
    (s.status.u = false →
      ReadsStatus (exec (.rdctl rC 0) s) s rC s.status ∧ ReadsStatus (exec (.rdctl rC 1) s) s rC s.estatus ∧
      ReadsStatus (exec (.rdctl rC 2) s) s rC s.bstatus ∧ WritesOnly (exec (.rdctl rC 3) s) s rC s.ienable ∧
      WritesOnly (exec (.rdctl rC 4) s) s rC (s.irq &&& s.ienable) ∧
      WritesOnly (exec (.rdctl rC 5) s) s rC s.cfg.cpuid ∧
      (5 < n.val → exec (.rdctl rC n) s = .refused (.undefinedControlRegister n)))

/-- For every state and all operands, with v the source: the word; in user mode the exception is taken;
otherwise wrctl status writes PIE from bit 0 and U as 0, and is refused where bit 1 is set on a core with
user mode; wrctl estatus and bstatus write bits 0 and 1 (U as 0 on a core without user mode); wrctl ienable
writes all 32 bits; wrctl cpuid changes nothing; wrctl ipending and numbers 6 to 31 are refused; bits 31..2
of v never matter to the first three; nothing else but pc + 4 changes. (46_other_control.md R255) -/
def Obligations.WriteControlRegister : Prop :=
  ∀ (s : State) (rA : Reg) (n : CtlNum) (v : Word), v = s.readReg rA →
    HasWord (.wrctl n rA) (rType rA 0 0 0x2E n.val) ∧
    (s.status.u = true → TakesException (exec (.wrctl n rA) s) s (s.pc + 4#32)) ∧
    (s.status.u = false →
      (v.getLsbD 1 = true ∧ s.cfg.hasUserMode = true → exec (.wrctl 0 rA) s = .refused .wrctlSetsU) ∧
      (¬ (v.getLsbD 1 = true ∧ s.cfg.hasUserMode = true) →
        WritesControl (exec (.wrctl 0 rA) s) s { pie := v.getLsbD 0, u := false } s.estatus s.bstatus s.ienable) ∧
      WritesControl (exec (.wrctl 1 rA) s) s s.status
        { pie := v.getLsbD 0, u := v.getLsbD 1 && s.cfg.hasUserMode } s.bstatus s.ienable ∧
      WritesControl (exec (.wrctl 2 rA) s) s s.status s.estatus
        { pie := v.getLsbD 0, u := v.getLsbD 1 && s.cfg.hasUserMode } s.ienable ∧
      WritesControl (exec (.wrctl 3 rA) s) s s.status s.estatus s.bstatus v ∧
      exec (.wrctl 4 rA) s = .refused .writeToIpending ∧
      WritesControl (exec (.wrctl 5 rA) s) s s.status s.estatus s.bstatus s.ienable ∧
      (5 < n.val → exec (.wrctl n rA) s = .refused (.undefinedControlRegister n)))

/-- For every state and all operands: the words; each answers a next state at pc + 4 (initd and initi outside
user mode) with every register, control register, byte of memory and input as before. The MODEL's own
records change alone: with a data cache flushd marks the stored words of its line written back, with an
instruction cache flushi and initi mark the written-back words of their line invalidated, and flushp forgets
the words marked both (log entry 8); with a data cache flushd and initd forget how the bytes of their line
were accessed (log entry 26); without the cache they change nothing; a line is 2^k words and the whole line
address is compared (log entry 25); sync changes nothing. (46_other_control.md R256; 46_other_control.md
R257; 46_other_control.md R258; 46_other_control.md R259; 46_other_control.md R260; 46_other_control.md
R262; 46_other_control.md R263; 20_memory.md R77; 20_memory.md R84; 20_memory.md R86; 20_memory.md R89) -/
def Obligations.CacheAndOrdering : Prop :=
  ∀ (s : State) (imm16 : Half) (rA : Reg) (addr p : Word), addr = s.readReg rA + imm16.signExtend 32 → p = dataAddr s.cfg addr →
    HasWord (.flushd imm16 rA) (iType rA 0 imm16 0x3B) ∧ HasWord (.initd imm16 rA) (iType rA 0 imm16 0x33) ∧
    HasWord (.flushi rA) (rType rA 0 0 0x0C 0) ∧ HasWord (.initi rA) (rType rA 0 0 0x29 0) ∧
    HasWord .flushp 0x0000203A ∧ HasWord .sync 0x0001B03A ∧
    (∀ views, views = (match s.cfg.dcacheLine with
        | none => s.views
        | some k => s.views.filter fun v => v.addr.toNat / 2 ^ (k + 2) ≠ p.toNat / 2 ^ (k + 2)) →
      OnlyMarks (exec (.flushd imm16 rA) s) s (match s.cfg.dcacheLine with
        | none => s.stored
        | some k => s.stored.map fun e =>
          if e.addr.toNat / 2 ^ (k + 2) = p.toNat / 2 ^ (k + 2) then { e with writtenBack := true } else e) views ∧
      (s.status.u = false → OnlyMarks (exec (.initd imm16 rA) s) s s.stored views)) ∧
    (∀ i, i = .flushi rA ∨ (i = .initi rA ∧ s.status.u = false) →
      OnlyMarks (exec i s) s (match s.cfg.icacheLine with
        | none => s.stored
        | some k => s.stored.map fun e =>
          if e.addr.toNat / 2 ^ (k + 2) = (s.readReg rA).toNat / 2 ^ (k + 2) ∧ e.writtenBack = true then
            { e with invalidated := true }
          else e) s.views) ∧
    OnlyMarks (exec .flushp s) s (s.stored.filter fun e => !(e.writtenBack && e.invalidated)) s.views ∧
    MovesTo (exec .sync s) s (s.pc + 4#32)

/-- From every state with memory in canonical form, with any caches, for each of the six stores to a word a in
memory that answers: the fetch of a is refused right after the store, still refused after flushd of the same
address, still refused after flushi of a, and after flushp it answers a word whose bytes are those stored
and, where the store reaches none, those memory held before. All four instructions answer. The record of
stored words is the model's (log entry 8), the comparison of lines its choice (log entry 25). (20_memory.md
R65; 20_memory.md R73; 20_memory.md R77; 20_memory.md R88; 20_memory.md R89; 46_other_control.md R257;
46_other_control.md R259; 46_other_control.md R262) -/
def Obligations.WrittenCodeNeedsFlushing : Prop :=
  ∀ (s : State) (io : Bool) (width : AccessWidth) (rB rA rF : Reg) (imm16 : Half) (addr p a : Word), s.mem.wf →
    addr = s.readReg rA + imm16.signExtend 32 → p = dataAddr s.cfg addr → a = wordOf p → s.readReg rF = a →
    Aligned addr width → InMemory s.cfg a .word → ¬ s.Mixes io addr width →
      ∃ s1 s2 s3 s4, exec (storeForm io width rB imm16 rA) s = .next s1 ∧ exec (.flushd imm16 rA) s1 = .next s2 ∧
        exec (.flushi rF) s2 = .next s3 ∧ exec .flushp s3 = .next s4 ∧
        (∀ u, u = s1 ∨ u = s2 ∨ u = s3 → ({ u with pc := a } : State).fetch = .refused (.staleFetch a)) ∧
        ∃ w t, ({ s4 with pc := a } : State).fetch = .next (w, t) ∧ ∀ j, j < 4 →
          w.extractLsb' (8 * j) 8 =
            if (a + BitVec.ofNat 32 j - p).toNat < width.bytes then
              (s.readReg rB).extractLsb' (8 * (a + BitVec.ofNat 32 j - p).toNat) 8
            else s.mem.read (a + BitVec.ofNat 32 j)

/-- For every state and all operands: the word, with the three flag bits set for general-purpose registers;
where the core has logic for N, exec answers a next state at pc + 4 in which the design's result stands in
the destination, a general-purpose register or a register of the logic, the logic's state (in the model's
form, log entry 13) is what the design gives, and everything else is as before; where it has none, the step
is refused. (47_custom_nop_unimplemented.md R270) -/
def Obligations.CustomInstructions : Prop :=
  ∀ (s : State) (n : Byte) (xC xA xB : XReg) (a b : Word) (out : Word × CustomLogic),
    (∀ i, xA = .r i → a = s.readReg i) → (∀ i, xA = .c i → a = s.custom.regs[i]) →
    (∀ i, xB = .r i → b = s.readReg i) → (∀ i, xB = .c i → b = s.custom.regs[i]) →
    out = Config.customFunction { n := n, a := a, b := b, xA := xA, xB := xB, xC := xC, logic := s.custom } →
      HasWord (.custom n xC xA xB)
        (xA.index.val * 2 ^ 27 + xB.index.val * 2 ^ 22 + xC.index.val * 2 ^ 17 + xA.flag.toNat * 2 ^ 16 +
          xB.flag.toNat * 2 ^ 15 + xC.flag.toNat * 2 ^ 14 + n.toNat * 2 ^ 6 + 0x32) ∧
      (n ∈ s.cfg.customPresent → ∃ t, exec (.custom n xC xA xB) s = .next t ∧ t.pc = s.pc + 4#32 ∧
        s.SameControl t ∧ s.SameMemory t ∧ t.irq = s.irq ∧ t.inputs = s.inputs ∧ t.ioLog = s.ioLog ∧
        t.stored = s.stored ∧ t.views = s.views ∧ t.draws = s.draws ∧
        (∀ i, xC = .r i → s.RegsAfter t i out.1 ∧ t.custom = out.2) ∧
        (∀ i, xC = .c i → s.SameRegs t ∧ t.custom.inner = out.2.inner ∧
          ∀ j : Reg, t.custom.regs[j] = if j = i then out.1 else out.2.regs[j])) ∧
      (n ∉ s.cfg.customPresent → exec (.custom n xC xA xB) s = .refused (.customNotPresent n))

/-- For every state: nop is the word 0x0001883A, the word of add r0, r0, r0, and exec answers a next state at pc
+ 4 with everything else as before; so does add r0, r0, r0. (47_custom_nop_unimplemented.md R271) -/
def Obligations.NoOperation : Prop :=
  ∀ s : State, HasWord .nop 0x0001883A ∧ encode .nop = encode (.add 0 0 0) ∧
    MovesTo (exec .nop s) s (s.pc + 4#32) ∧ MovesTo (exec (.add 0 0 0) s) s (s.pc + 4#32) ∧
    decodeWord 0#32 = .ok (.call 0)

/-- For every state with status.U = 1: rdctl, wrctl, bret, eret, initd and initi, with any operands, answer the
exception entry with return address pc + 4 and have no other effect. On a core without user mode, in a sound
state, status.U is 0. (60_exceptions.md R304) -/
def Obligations.PrivilegedInUserMode : Prop :=
  ∀ s : State,
    (s.status.u = true → ∀ i, isPrivileged i = true → TakesException (exec i s) s (s.pc + 4#32)) ∧
    (∀ (rC rA : Reg) (n : CtlNum) (c : BitVec 5) (imm16 : Half), isPrivileged (.rdctl rC n) = true ∧
      isPrivileged (.wrctl n rA) = true ∧ isPrivileged (.bret c) = true ∧ isPrivileged .eret = true ∧
      isPrivileged (.initd imm16 rA) = true ∧ isPrivileged (.initi rA) = true) ∧
    (s.Sound → s.cfg.hasUserMode = false → s.status.u = false)

/-- For every state and all operands: each of the seven instructions, on a core that lacks it, answers the
exception entry with return address pc + 4 and writes no register of its own. (60_exceptions.md R303;
47_custom_nop_unimplemented.md R272; 47_custom_nop_unimplemented.md R273) -/
def Obligations.UnimplementedInstructions : Prop :=
  ∀ (s : State) (rC rA rB : Reg) (imm16 : Half),
    (s.cfg.unimplemented.mul = true → TakesException (exec (.mul rC rA rB) s) s (s.pc + 4#32)) ∧
    (s.cfg.unimplemented.muli = true → TakesException (exec (.muli rB rA imm16) s) s (s.pc + 4#32)) ∧
    (s.cfg.unimplemented.mulxss = true → TakesException (exec (.mulxss rC rA rB) s) s (s.pc + 4#32)) ∧
    (s.cfg.unimplemented.mulxsu = true → TakesException (exec (.mulxsu rC rA rB) s) s (s.pc + 4#32)) ∧
    (s.cfg.unimplemented.mulxuu = true → TakesException (exec (.mulxuu rC rA rB) s) s (s.pc + 4#32)) ∧
    (s.cfg.unimplemented.div = true → TakesException (exec (.div rC rA rB) s) s (s.pc + 4#32)) ∧
    (s.cfg.unimplemented.divu = true → TakesException (exec (.divu rC rA rB) s) s (s.pc + 4#32)) ∧
    ∀ (i : Instr) (c : Unimplemented) (t : State), (∀ d : Config, absentOn d i = false) → exec i s = .next t →
      exec i { s with cfg := { s.cfg with unimplemented := c } } =
        .next { t with cfg := { s.cfg with unimplemented := c } }

/-- For every instruction and every state from which it answers: estatus changes only by trap, wrctl estatus, a
privileged instruction in user mode, or an instruction the core lacks; bstatus only by break or wrctl
bstatus; ienable only by wrctl ienable; the debug mode bit only by break or bret; status only by those
entries, break, eret, bret or wrctl status; the configuration never. (10_state.md R28; 10_state.md R31;
10_state.md R32; 10_state.md R33; 10_state.md R34; 10_state.md R38; 60_exceptions.md R291) -/
def Obligations.ControlRegisterWriters : Prop :=
  ∀ (i : Instr) (s t : State), exec i s = .next t →
    t.cfg = s.cfg ∧
    (t.estatus ≠ s.estatus →
      i = .trap ∨ (∃ rA, i = .wrctl 1 rA) ∨ (isPrivileged i = true ∧ s.status.u = true) ∨ absentOn s.cfg i = true) ∧
    (t.bstatus ≠ s.bstatus → (∃ k, i = .brk k) ∨ ∃ rA, i = .wrctl 2 rA) ∧
    (t.ienable ≠ s.ienable → ∃ rA, i = .wrctl 3 rA ∧ s.status.u = false ∧ t.ienable = s.readReg rA) ∧
    (t.inDebug ≠ s.inDebug → (∃ k, i = .brk k) ∨ ∃ c, i = .bret c) ∧
    (t.status ≠ s.status →
      i = .trap ∨ (∃ k, i = .brk k) ∨ i = .eret ∨ (∃ c, i = .bret c) ∨ (∃ rA, i = .wrctl 0 rA) ∨
      (isPrivileged i = true ∧ s.status.u = true) ∨ absentOn s.cfg i = true)

/-- For every state at whose boundary no break is demanded and no interrupt is taken: where pc after the
boundary is a multiple of 4, its four bytes are memory and none has been stored to without a flush, and
those bytes, the first least significant, decode to an instruction i, then i is well formed and the step is
exec of i at the state after the boundary. Where pc is no multiple of 4 the step is refused; where it is one
but a byte is unmapped the step faults; where the word there has been stored to and not yet flushed (log
entry 8) the step is refused. (00_scope.md R8; 20_memory.md R62; 20_memory.md R65; 20_memory.md R67;
20_memory.md R73; 20_memory.md R89) -/
def Obligations.StepRunsInstruction : Prop :=
  ∀ s : State, s.breakDemanded = false → s.interruptTaken = false →
    (∀ i, s.sampled.pc.toNat % 4 = 0 → InMemory s.cfg s.sampled.pc .word → (∀ e ∈ s.stored, e.addr ≠ s.sampled.pc) →
      decode [s.sampled.mem.read s.sampled.pc, s.sampled.mem.read (s.sampled.pc + 1#32),
        s.sampled.mem.read (s.sampled.pc + 2#32), s.sampled.mem.read (s.sampled.pc + 3#32)] = .ok (i, []) →
      i.wellFormed = true ∧ step s = exec i s.sampled) ∧
    (s.sampled.pc.toNat % 4 ≠ 0 → step s = .refused (.misalignedPc s.sampled.pc)) ∧
    (s.sampled.pc.toNat % 4 = 0 → ¬ AllMapped s.cfg s.sampled.pc .word →
      step s = .fault (.unmappedAddress s.sampled.pc)) ∧
    (s.sampled.pc.toNat % 4 = 0 → AllMapped s.cfg s.sampled.pc .word → (∃ e ∈ s.stored, e.addr = s.sampled.pc) →
      step s = .refused (.staleFetch s.sampled.pc))

/-- For every state and every n below 32: bit n of what rdctl ipending gives is input n and bit n of ienable;
the interrupt condition holds exactly when PIE is 1 and some input is asserted and enabled; a write to
ipending is refused outside user mode. (10_state.md R35; 60_exceptions.md R300) -/
def Obligations.InterruptCondition : Prop :=
  ∀ (s : State) (n : Nat) (rA : Reg),
    (s.ipending.getLsbD n = (s.irq.getLsbD n && s.ienable.getLsbD n)) ∧
    (s.status.u = false → ∀ rC, WritesOnly (exec (.rdctl rC 4) s) s rC s.ipending) ∧
    (s.status.u = false → exec (.wrctl 4 rA) s = .refused .writeToIpending) ∧
    (s.interruptRequest = true ↔
      s.status.pie = true ∧ ∃ k, k < 32 ∧ s.irq.getLsbD k = true ∧ s.ienable.getLsbD k = true)

/-- For every state where no break is demanded: the inputs the step looks at are those of the boundary; if PIE
is 1 and some input of the boundary is asserted and enabled and the boundary accepts it, the step is the
exception entry with return address pc + 4, without executing the instruction at pc, and estatus.EPIE is 1
after it; if PIE is 0 or no enabled input is asserted, or the boundary does not accept it, the step is not
that entry but runs the instruction at pc; with no further boundary listed a pending interrupt is taken at
once (the model's choice, log entry 6). (60_exceptions.md R290; 60_exceptions.md R291; 60_exceptions.md
R300; 60_exceptions.md R301; 00_scope.md R8; 10_state.md R35) -/
def Obligations.InterruptTaken : Prop :=
  ∀ s : State, s.breakDemanded = false →
    s.sampled.irq = s.boundary.irq ∧
    (s.sampled.interruptRequest = true ↔
      s.sampled.status.pie = true ∧ ∃ n, n < 32 ∧ s.boundary.irq.getLsbD n = true ∧ s.sampled.ienable.getLsbD n = true) ∧
    (s.sampled.interruptRequest = true → s.boundary.accept = true →
      TakesException (step s) s.sampled (s.sampled.pc + 4#32) ∧ ∃ t, step s = .next t ∧ t.estatus.pie = true) ∧
    (s.sampled.interruptRequest = false ∨ s.boundary.accept = false → step s = s.sampled.runFetched exec) ∧
    (s.inputs = [] → s.interruptRequest = true → TakesException (step s) s (s.pc + 4#32))

/-- For every state: where the core has the JTAG debug module and the boundary demands a break, the step is the
break entry with return address pc + 4, before any interrupt and without executing the instruction at pc; on
a core without the module no break is ever demanded. (60_exceptions.md R294; 60_exceptions.md R310;
60_exceptions.md R311; 60_exceptions.md R312; 00_scope.md R8) -/
def Obligations.HardwareBreak : Prop :=
  ∀ s : State,
    (s.cfg.hasJtagDebug = true → s.boundary.hwBreak = true →
      TakesBreak (step s) s.sampled (s.sampled.pc + 4#32)) ∧
    (s.cfg.hasJtagDebug = false → s.breakDemanded = false ∧
      (s.sampled.interruptRequest = false → step s = s.sampled.runFetched exec))

/-- For every state at whose boundary no break is demanded and no interrupt is taken: where the word at pc after
the boundary can be fetched from memory and is no instruction, the step faults under the default policy,
goes on at pc + 4 with nothing changed since the boundary under the no-operation policy, and takes the
exception under the trap policy. The last two are the model's reading of the parameter (log entry 12).
(30_encoding.md R111; 30_encoding.md R112; 47_custom_nop_unimplemented.md R274; 60_exceptions.md R306;
00_scope.md R8) -/
def Obligations.InvalidWords : Prop :=
  ∀ (s : State) (w : Word) (e : Invalid), s.breakDemanded = false → s.interruptTaken = false →
    s.sampled.pc.toNat % 4 = 0 → InMemory s.cfg s.sampled.pc .word → (∀ x ∈ s.stored, x.addr ≠ s.sampled.pc) →
    w = s.sampled.mem.read (s.sampled.pc + 3#32) ++ s.sampled.mem.read (s.sampled.pc + 2#32) ++
      s.sampled.mem.read (s.sampled.pc + 1#32) ++ s.sampled.mem.read s.sampled.pc →
    decodeWord w = .error e →
      (s.cfg.invalidInsn = .fault → step s = .fault (.invalidInstruction w)) ∧
      (s.cfg.invalidInsn = .nop → MovesTo (step s) s.sampled (s.sampled.pc + 4#32)) ∧
      (s.cfg.invalidInsn = .trap → TakesException (step s) s.sampled (s.sampled.pc + 4#32))

/-- On every configuration: after reset pc is the reset address, status is 0 (supervisor mode, interrupts
disabled), the debug mode bit is clear, r0 reads 0 and rdctl cpuid would read the configured value;
State.reset is that state on the reference configuration. The values of the other registers are the model's
choice (log entry 3) and are not stated. (10_state.md R50; 70_reset_and_hazards.md R330;
70_reset_and_hazards.md R331) -/
def Obligations.ResetState : Prop :=
  ∀ c : Config, (State.resetOn c).pc = c.resetWord ++ 0#2 ∧ (State.resetOn c).status = .clear ∧
    (State.resetOn c).inDebug = false ∧ (State.resetOn c).mode = .supervisor ∧ (State.resetOn c).readReg 0 = 0#32 ∧
    (State.resetOn c).cfg.cpuid = c.cpuid ∧ (State.resetOn c).interruptRequest = false ∧
    State.reset = State.resetOn Config.reference

/-- On every configuration the state after reset is sound: memory in its canonical form and inside the memory
regions, pc a multiple of 4, U, EU and BU clear on a core without user mode, every recorded stored word
under a word address and once, no byte recorded as accessed both ways. (10_state.md R27; 10_state.md R50;
70_reset_and_hazards.md R330; 60_exceptions.md R288; 20_memory.md R60; 20_memory.md R77; 20_memory.md R89) -/
def Obligations.ResetSound : Prop :=
  (∀ c : Config, (State.resetOn c).Sound) ∧ State.reset.Sound

/-- For every sound state: if the step answers, the next state is sound: memory keeps its canonical form and
stays inside the memory regions, pc stays a multiple of 4, on a core without user mode U, EU and BU stay 0,
each stored word is recorded once under its word address (log entry 8), and no byte is recorded as accessed
both ways (log entry 26). (10_state.md R27; 10_state.md R31; 20_memory.md R60; 20_memory.md R62;
20_memory.md R77; 20_memory.md R89; 60_exceptions.md R288) -/
def Obligations.StepKeepsSound : Prop :=
  ∀ s t : State, s.Sound → step s = .next t → t.Sound

/-- For every state: if the step answers, the configuration (the three handler addresses, cpuid, the memory map
and the rest) is as before. (00_scope.md R5; 10_state.md R36; 60_exceptions.md R284) -/
def Obligations.StepKeepsConfiguration : Prop :=
  ∀ s t : State, step s = .next t → t.cfg = s.cfg

/-- For every state in user mode: if the step answers, then either the mode is still user and status, estatus,
bstatus, ienable and the debug mode bit are as before, or an exception was entered (pc at the exception
address, estatus the old status, status clear, bstatus and ienable as before), or a break was entered (pc at
the break address, bstatus the old status, status clear, debug mode). User-mode code has no other way to
change a control register or its mode. (60_exceptions.md R285; 60_exceptions.md R286; 60_exceptions.md R304;
10_state.md R30; 10_state.md R41) -/
def Obligations.UserModeConfined : Prop :=
  ∀ s t : State, s.mode = .user → step s = .next t →
    (t.mode = .user ∧ t.status = s.status ∧ t.estatus = s.estatus ∧ t.bstatus = s.bstatus ∧ t.ienable = s.ienable ∧
      t.inDebug = false) ∨
    (t.mode = .supervisor ∧ t.pc = s.cfg.exceptionWord ++ 0#2 ∧ t.estatus = s.status ∧ t.status = .clear ∧
      t.bstatus = s.bstatus ∧ t.ienable = s.ienable) ∨
    (t.mode = .debug ∧ t.pc = s.cfg.breakWord ++ 0#2 ∧ t.bstatus = s.status ∧ t.status = .clear ∧
      t.estatus = s.estatus ∧ t.ienable = s.ienable)

/-- For every state, if the step answers and the mode changes: from supervisor to user only on a core with user
mode, by eret with EU set or by bret with BU set; into debug mode only by break or a hardware break; out of
debug mode only by bret; from user to supervisor only at the exception address. The instruction is the one
the step fetched at pc after the boundary. (60_exceptions.md R286; 60_exceptions.md R287; 60_exceptions.md
R288; 60_exceptions.md R297; 60_exceptions.md R310; 60_exceptions.md R312; 60_exceptions.md R313;
10_state.md R41; 46_other_control.md R251; 46_other_control.md R253) -/
def Obligations.ModeTransitions : Prop :=
  ∀ s t : State, step s = .next t →
    (s.mode = .supervisor → t.mode = .user → s.breakDemanded = false ∧ s.interruptTaken = false ∧
      s.cfg.hasUserMode = true ∧ ∃ r, s.sampled.fetch = .next r ∧
      ((decodeWord r.1 = .ok .eret ∧ s.estatus.u = true) ∨ ∃ c, decodeWord r.1 = .ok (.bret c) ∧ s.bstatus.u = true)) ∧
    (s.mode ≠ .debug → t.mode = .debug → s.breakDemanded = true ∨
      ∃ r k, s.sampled.fetch = .next r ∧ decodeWord r.1 = .ok (.brk k)) ∧
    (s.mode = .debug → t.mode ≠ .debug → ∃ r c, s.sampled.fetch = .next r ∧ decodeWord r.1 = .ok (.bret c)) ∧
    (s.mode = .user → t.mode = .supervisor → t.pc = s.cfg.exceptionWord ++ 0#2)

/-- For every state outside debug mode, or on a core without the JTAG debug module: if the step answers and
ienable has changed, the instruction fetched at pc is wrctl ienable, it ran outside user mode, and ienable
holds its source register. (10_state.md R34; 10_state.md R38) -/
def Obligations.IenableWrittenByWrctlOnly : Prop :=
  ∀ s t : State, (s.cfg.hasJtagDebug && s.inDebug) = false → step s = .next t → t.ienable ≠ s.ienable →
    ∃ r rA, s.sampled.fetch = .next r ∧ decodeWord r.1 = .ok (.wrctl 3 rA) ∧ s.status.u = false ∧
      t.ienable = s.readReg rA

/-- For every well-formed pseudo-instruction and every state: running it gives the same outcome as running the
one or two machine instructions the assembler emits for it. (30_encoding.md R119; 30_encoding.md R120;
42_move.md R179) -/
def Obligations.PseudoInstructionsRunAsExpanded : Prop :=
  ∀ (i : Instr) (s : State), i.isMachine = false → i.wellFormed = true → exec i s = runAll (expansion i) s

/-- For every well-formed instruction: its expansion consists of machine instructions, and its words are the
words of the expansion one after another; a machine instruction is its own expansion and one word.
(30_encoding.md R100; 30_encoding.md R120) -/
def Obligations.PseudoInstructionsAreTheirExpansions : Prop :=
  ∀ i : Instr, i.wellFormed = true →
    encode i = (expansion i).flatMap encode ∧ (∀ j ∈ expansion i, j.isMachine = true ∧ j.wellFormed = true) ∧
    (i.isMachine = true → expansion i = [i] ∧ (encode i).length = 1)

/-- For every 32-bit v: the adjusted upper half in the upper half plus the sign-extended lower half is v modulo
2^32, and the upper half in the upper half or the lower half is v. (30_encoding.md R119) -/
def Obligations.AddressSplitting : Prop :=
  ∀ v : Word, (lo v).toNat = v.toNat % 2 ^ 16 ∧ (hi v).toNat = v.toNat / 2 ^ 16 ∧
    (hiadj v).toNat = (v.toNat / 2 ^ 16 + v.toNat / 2 ^ 15 % 2) % 2 ^ 16 ∧
    (hiadj v ++ 0#16 : BitVec 32) + (lo v).signExtend 32 = v ∧ ((hi v ++ 0#16 : BitVec 32) ||| (lo v).setWidth 32) = v

/-- From every state with memory in canonical form, for every word w stored at a word address in memory: byte
loads at the four addresses give the bytes of w from the least significant up, halfword loads at the two
even addresses give its low and high halves, the word load gives w, and a fetch at any address gives its
four bytes with the first least significant. (20_memory.md R64; 20_memory.md R65) -/
def Obligations.LittleEndianMemory : Prop :=
  ∀ (s t : State) (a w : Word), s.mem.wf → Aligned a .word → dataAddr s.cfg a = a → InMemory s.cfg a .word →
    s.store false a .word w = .next t →
      t.mem.read a = w.extractLsb' 0 8 ∧ t.mem.read (a + 1#32) = w.extractLsb' 8 8 ∧
      t.mem.read (a + 2#32) = w.extractLsb' 16 8 ∧ t.mem.read (a + 3#32) = w.extractLsb' 24 8 ∧
      (∃ u, t.load false a .byte = .next ((w.extractLsb' 0 8).setWidth 32, u)) ∧
      (∃ u, t.load false (a + 1#32) .byte = .next ((w.extractLsb' 8 8).setWidth 32, u)) ∧
      (∃ u, t.load false (a + 2#32) .byte = .next ((w.extractLsb' 16 8).setWidth 32, u)) ∧
      (∃ u, t.load false (a + 3#32) .byte = .next ((w.extractLsb' 24 8).setWidth 32, u)) ∧
      (∃ u, t.load false a .half = .next ((w.extractLsb' 0 16).setWidth 32, u)) ∧
      (∃ u, t.load false (a + 2#32) .half = .next ((w.extractLsb' 16 16).setWidth 32, u)) ∧
      (∃ u, t.load false a .word = .next (w, u)) ∧
      (∀ x u, t.fetch = .next (x, u) → InMemory t.cfg t.pc .word → x = t.mem.read (t.pc + 3#32) ++
        t.mem.read (t.pc + 2#32) ++ t.mem.read (t.pc + 1#32) ++ t.mem.read t.pc) ∧
      ∀ (h : Half) (v : State), s.store false a .half (h.setWidth 32) = .next v →
        v.mem.read a = h.extractLsb' 0 8 ∧ v.mem.read (a + 1#32) = h.extractLsb' 8 8

/-- For every machine instruction, with every operand the encoding admits, and any bytes after it: the decoder
reads that instruction from the bytes of its word and leaves the bytes after it. (30_encoding.md R100;
30_encoding.md R101; 30_encoding.md R102; 30_encoding.md R103; 30_encoding.md R104; 30_encoding.md R105;
30_encoding.md R108; 30_encoding.md R109; 30_encoding.md R110) -/
def Obligations.DecodeOfEncode : Prop :=
  ∀ (i : Instr) (rest : List Byte), i.isMachine = true →
    (encodeBytes i).length = 4 ∧ decode (encodeBytes i ++ rest) = .ok (i, rest)

/-- For every 32-bit word: if the decoder accepts it, the instruction is a well-formed machine instruction whose
encoding is that word. No two words decode to the same instruction, and no bit is ignored. (30_encoding.md
R108; 30_encoding.md R109; 30_encoding.md R110; 30_encoding.md R111; 30_encoding.md R112) -/
def Obligations.EncodeOfDecode : Prop :=
  ∀ (w : Word) (i : Instr), decodeWord w = .ok i → i.isMachine = true ∧ i.wellFormed = true ∧ encode i = [w]

/-- A few words the spec writes out, one of each format and family, decode to the instruction the spec gives for
them. (30_encoding.md R108; 30_encoding.md R109; 30_encoding.md R110; 41_arith_logic.md R151;
40_data_transfer.md R131; 46_other_control.md R250; 46_other_control.md R254) -/
def Obligations.DecodeWords : Prop :=
  decodeWord 0x0886703A#32 = .ok (.and 3 1 2) ∧ decodeWord 0x21400217#32 = .ok (.ldw 5 8 4) ∧
    decodeWord 0xD97FFF15#32 = .ok (.stw 5 0xFFFC 27) ∧ decodeWord 0x00020000#32 = .ok (.call 0x800) ∧
    decodeWord 0x003B683A#32 = .ok .trap ∧ decodeWord 0x0005313A#32 = .ok (.rdctl 2 4) ∧
    decodeWord 0x0886183A#32 = .ok (.rol 3 1 2) ∧ decodeWord 0x0880030E#32 = .ok (.bge 1 2 12) ∧
    decodeWord 0x0887C172#32 = .ok (.custom 5 (.r 3) (.r 1) (.r 2)) ∧
    decodeWord 0x203FFF3B#32 = .ok (.flushd 0xFFFC 4)

/-- For every state, if the step answers: where it took a hardware break or an interrupt, or went over a word
that is no instruction, the record of bus transfers is as before; where it executed an io load or store the
record has exactly one transfer more, the latest, a read or a write of that width; where it executed
anything else the record is as before, but that on a core with BIT31_BYPASS a plain load or store may have
made one transfer too (log entry 19). So no step reorders or drops a transfer. That plain accesses are
otherwise not recorded is log entry 17. (20_memory.md R72; 20_memory.md R74; 20_memory.md R76; 20_memory.md
R82; 00_scope.md R8; 30_encoding.md R112) -/
def Obligations.BusTransfersInOrder : Prop :=
  ∀ s t : State, step s = .next t →
    (t.ioLog = s.ioLog ∨ ∃ x, t.ioLog = x :: s.ioLog) ∧
    (s.breakDemanded = true ∨ s.interruptTaken = true → t.ioLog = s.ioLog) ∧
    ∀ r, s.breakDemanded = false → s.interruptTaken = false → s.sampled.fetch = .next r →
      (∀ e, decodeWord r.1 = .error e → t.ioLog = s.ioLog) ∧
      ∀ i, decodeWord r.1 = .ok i →
        (∀ w width, ioForm i = some (w, width) → ∃ x, t.ioLog = x :: s.ioLog ∧ x.write = w ∧ x.width = width) ∧
        (ioForm i = none → s.cfg.bit31Bypass = false ∨ isPlainAccess i = false → t.ioLog = s.ioLog)

/-- From every sound state: trap answers, eret at the resulting state answers, and then pc is the trap's pc + 4,
status is what it was, estatus is that status, r29 is pc + 4, and every other register, bstatus, ienable,
the debug mode bit, the configuration, memory and everything outside the processor are as before.
(60_exceptions.md R290; 60_exceptions.md R297; 60_exceptions.md R298; 60_exceptions.md R291;
46_other_control.md R250; 46_other_control.md R251) -/
def Obligations.TrapThenReturn : Prop :=
  ∀ s : State, s.Sound → ∃ t u, exec .trap s = .next t ∧ exec .eret t = .next u ∧ u.pc = s.pc + 4#32 ∧
    u.status = s.status ∧ u.estatus = s.status ∧ s.RegsAfter u 29 (s.pc + 4#32) ∧ u.bstatus = s.bstatus ∧
    u.ienable = s.ienable ∧ u.inDebug = s.inDebug ∧ u.cfg = s.cfg ∧ s.SameMemory u ∧ s.SameOutside u

/-- From every sound state: after the exception entry an interrupt makes, with return address pc + 4, addi ea,
ea, -4 (the word 0xEF7FFF04) and eret answer, and then pc is the interrupted pc, status is what it was,
estatus holds that status, and every register but r29, bstatus, ienable, the debug mode bit, the
configuration, memory and everything outside the processor are as before. (60_exceptions.md R290;
60_exceptions.md R297; 60_exceptions.md R298; 60_exceptions.md R301) -/
def Obligations.InterruptThenReturn : Prop :=
  ∀ s : State, s.Sound → HasWord (.addi 29 29 0xFFFC) 0xEF7FFF04 ∧
    ∃ t u, exec (.addi 29 29 0xFFFC) (s.exceptionEntry (s.pc + 4#32)) = .next t ∧ exec .eret t = .next u ∧
      u.pc = s.pc ∧ u.status = s.status ∧ u.estatus = s.status ∧ s.RegsAfter u 29 s.pc ∧ u.bstatus = s.bstatus ∧
      u.ienable = s.ienable ∧ u.inDebug = s.inDebug ∧ u.cfg = s.cfg ∧ s.SameMemory u ∧ s.SameOutside u

/-- From every sound state outside debug mode: break answers, bret at the resulting state answers, and then pc
is the break's pc + 4, the mode and status are what they were, estatus is untouched, bstatus holds that
status, and every register but r30 (ea among them), ienable, the configuration, memory and everything
outside the processor are as before. (60_exceptions.md R286; 60_exceptions.md R310; 60_exceptions.md R311;
60_exceptions.md R313; 60_exceptions.md R314; 46_other_control.md R252; 46_other_control.md R253) -/
def Obligations.BreakThenReturn : Prop :=
  ∀ (s : State) (k c : BitVec 5), s.Sound → s.mode ≠ .debug →
    ∃ t u, exec (.brk k) s = .next t ∧ t.mode = .debug ∧ exec (.bret c) t = .next u ∧ u.pc = s.pc + 4#32 ∧
      u.mode = s.mode ∧ u.status = s.status ∧ u.estatus = s.estatus ∧ u.bstatus = s.status ∧ s.RegsAfter u 30 (s.pc + 4#32) ∧
      u.ienable = s.ienable ∧ u.cfg = s.cfg ∧ s.SameMemory u ∧ s.SameOutside u

/-- For every state in debug mode on a core with the JTAG debug module, each change of a debug tool sets the
register, pc, PIE, status copy, ienable or custom logic state it names (U, EU and BU as 60_exceptions.md
R286 and R288 leave them) and a list of changes is made one after another; outside debug mode or without the
module the tool changes nothing. Which changes there are is the model's form (log entry 14).
(60_exceptions.md R286; 60_exceptions.md R288; 60_exceptions.md R312; 10_state.md R41; 10_state.md R46) -/
def Obligations.DebugToolChanges : Prop :=
  ∀ s : State,
    ((s.cfg.hasJtagDebug && s.inDebug) = true →
      (∀ r v, s.edited [.gpr r v] = s.writeReg r v) ∧ (∀ a, s.edited [.pcWord a] = { s with pc := a ++ 0#2 }) ∧
      (∀ b, s.edited [.pie b] = { s with status := { pie := b, u := s.status.u } }) ∧
      (∀ b : StatusBits, s.edited [.estatus b] =
        { s with estatus := { pie := b.pie, u := b.u && s.cfg.hasUserMode } }) ∧
      (∀ b : StatusBits, s.edited [.bstatus b] =
        { s with bstatus := { pie := b.pie, u := b.u && s.cfg.hasUserMode } }) ∧
      (∀ v, s.edited [.ienable v] = { s with ienable := v }) ∧ (∀ l, s.edited [.custom l] = { s with custom := l }) ∧
      ∀ l m, s.edited (l ++ m) = (s.edited l).edited m) ∧
    ((s.cfg.hasJtagDebug && s.inDebug) = false → ∀ l, s.edited l = s)

/-- For every state: with no boundary listed the boundary changes nothing, demands no break and accepts a
pending interrupt (the model's choice, log entry 6). With one listed, the interrupt inputs become its
levels, memory becomes what the other masters' writes make of it, one after another and in memory regions
only, the list becomes its rest, and then a debug tool's changes are made (log entry 14); the configuration,
the debug mode bit, U, the records of stored words, of accesses and of transfers and the count of free
values are as before, and where no debug tool reaches, so are pc, every register, every control register and
the custom logic; a break is demanded where the boundary asks for it on a core with the JTAG debug module,
and an interrupt is taken where its condition holds after the boundary and the boundary accepts it. The list
of boundaries is the model's form of the environment (log entries 6 and 18). (00_scope.md R8; 10_state.md
R35; 20_memory.md R87; 60_exceptions.md R300; 60_exceptions.md R301; 60_exceptions.md R312; 60_exceptions.md
R320) -/
def Obligations.BoundaryEffect : Prop :=
  ∀ s : State,
    (s.inputs = [] → s.sampled = s ∧ s.breakDemanded = false ∧ s.interruptTaken = s.interruptRequest) ∧
    (∀ b rest, s.inputs = b :: rest →
      s.sampled = ({ s with irq := b.irq, mem := externalWrites s.cfg s.mem b.writes, inputs := rest } : State).edited
        b.edits ∧
      s.sampled.irq = b.irq ∧ s.sampled.mem = externalWrites s.cfg s.mem b.writes ∧ s.sampled.inputs = rest ∧
      s.sampled.cfg = s.cfg ∧ s.sampled.inDebug = s.inDebug ∧ s.sampled.status.u = s.status.u ∧
      s.sampled.stored = s.stored ∧ s.sampled.views = s.views ∧ s.sampled.ioLog = s.ioLog ∧
      s.sampled.draws = s.draws ∧
      ((s.cfg.hasJtagDebug && s.inDebug) = false →
        s.sampled.pc = s.pc ∧ s.SameRegs s.sampled ∧ s.SameControl s.sampled ∧ s.sampled.custom = s.custom) ∧
      s.breakDemanded = (s.cfg.hasJtagDebug && b.hwBreak) ∧
      s.interruptTaken = (s.sampled.interruptRequest && b.accept)) ∧
    externalWrites s.cfg s.mem [] = s.mem ∧
    (s.mem.wf → ∀ (l : List (Word × Byte)) (a x : Word) (v : Byte),
      (externalWrites s.cfg s.mem (l ++ [(a, v)])).read x =
        if x = a ∧ kindAt s.cfg a = some .memory then v else (externalWrites s.cfg s.mem l).read x)
end

