-- ==== Sys2Proof/Laws/Encoding.lean ====
section
/-! SUPPORT. The fields of the words the encoder builds, the words the fields rebuild, and the bytes
of a word. Each word is one number in the places of its fields; the rest is arithmetic. -/

namespace Sys2Proof

/-- Concatenation as arithmetic. -/
theorem toNat_append_add {n m : Nat} (x : BitVec n) (y : BitVec m) :
    (x ++ y).toNat = x.toNat * 2 ^ m + y.toNat := by
  rw [BitVec.toNat_append, ← Nat.shiftLeft_add_eq_or_of_lt y.isLt, Nat.shiftLeft_eq]

/-- A field as arithmetic. -/
theorem toNat_field (w : Word) (lo len : Nat) : (w.extractLsb' lo len).toNat = w.toNat / 2 ^ lo % 2 ^ len := by
  rw [BitVec.extractLsb'_toNat, Nat.shiftRight_eq_div_pow]

theorem fieldA_val (w : Word) : (fieldA w).val = w.toNat / 2 ^ 27 % 2 ^ 5 := toNat_field w 27 5

theorem fieldB_val (w : Word) : (fieldB w).val = w.toNat / 2 ^ 22 % 2 ^ 5 := toNat_field w 22 5

theorem fieldC_val (w : Word) : (fieldC w).val = w.toNat / 2 ^ 17 % 2 ^ 5 := toNat_field w 17 5

/-! ### Words as numbers -/

theorem iWord_toNat (a b : Reg) (i : Half) (op : BitVec 6) :
    (iWord a b i op).toNat = ((a.val * 2 ^ 5 + b.val) * 2 ^ 16 + i.toNat) * 2 ^ 6 + op.toNat := by
  refine (toNat_append_add (n := 5 + 5 + 16) (m := 6) _ _).trans ?_
  rw [toNat_append_add, toNat_append_add]
  rfl

theorem rWord_toNat (a b c : Reg) (opx : BitVec 6) (i : BitVec 5) :
    (rWord a b c opx i).toNat =
      ((((a.val * 2 ^ 5 + b.val) * 2 ^ 5 + c.val) * 2 ^ 6 + opx.toNat) * 2 ^ 5 + i.toNat) * 2 ^ 6 + 0x3A := by
  refine (toNat_append_add (n := 5 + 5 + 5 + 6 + 5) (m := 6) _ _).trans ?_
  rw [toNat_append_add, toNat_append_add, toNat_append_add, toNat_append_add]
  rfl

theorem jWord_toNat (i : BitVec 26) (op : BitVec 6) : (jWord i op).toNat = i.toNat * 2 ^ 6 + op.toNat :=
  toNat_append_add i op

theorem customWord_toNat (n : Byte) (xC xA xB : XReg) :
    (customWord n xC xA xB).toNat =
      ((((((xA.index.val * 2 ^ 5 + xB.index.val) * 2 ^ 5 + xC.index.val) * 2 ^ 1 + xA.flag.toNat) * 2 ^ 1 +
        xB.flag.toNat) * 2 ^ 1 + xC.flag.toNat) * 2 ^ 8 + n.toNat) * 2 ^ 6 + 0x32 := by
  refine (toNat_append_add (n := 5 + 5 + 5 + 1 + 1 + 1 + 8) (m := 6) _ _).trans ?_
  rw [toNat_append_add, toNat_append_add, toNat_append_add, toNat_append_add, toNat_append_add,
    toNat_append_add]
  rfl

/-! ### The fields of an I-type word (30_encoding.md R101) -/

section IType
variable (a b : Reg) (i : Half) (op : BitVec 6)

@[simp] theorem fieldOp_iWord : fieldOp (iWord a b i op) = op := by
  have := op.isLt
  have := i.isLt
  apply BitVec.eq_of_toNat_eq
  rw [fieldOp, toNat_field, iWord_toNat]
  omega

@[simp] theorem fieldImm16_iWord : fieldImm16 (iWord a b i op) = i := by
  have := op.isLt
  have := i.isLt
  apply BitVec.eq_of_toNat_eq
  rw [fieldImm16, toNat_field, iWord_toNat]
  omega

@[simp] theorem fieldB_iWord : fieldB (iWord a b i op) = b := by
  have := op.isLt
  have := i.isLt
  apply Fin.ext
  rw [fieldB_val, iWord_toNat]
  omega

@[simp] theorem fieldA_iWord : fieldA (iWord a b i op) = a := by
  have := op.isLt
  have := i.isLt
  apply Fin.ext
  rw [fieldA_val, iWord_toNat]
  omega

end IType

/-! ### The fields of an R-type word (30_encoding.md R102) -/

section RType
variable (a b c : Reg) (opx : BitVec 6) (i : BitVec 5)

@[simp] theorem fieldOp_rWord : fieldOp (rWord a b c opx i) = 0x3A#6 := by
  have := opx.isLt
  have := i.isLt
  apply BitVec.eq_of_toNat_eq
  rw [fieldOp, toNat_field, rWord_toNat]
  simp only [BitVec.toNat_ofNat]
  omega

@[simp] theorem fieldImm5_rWord : fieldImm5 (rWord a b c opx i) = i := by
  have := opx.isLt
  have := i.isLt
  apply BitVec.eq_of_toNat_eq
  rw [fieldImm5, toNat_field, rWord_toNat]
  omega

@[simp] theorem fieldOpx_rWord : fieldOpx (rWord a b c opx i) = opx := by
  have := opx.isLt
  have := i.isLt
  apply BitVec.eq_of_toNat_eq
  rw [fieldOpx, toNat_field, rWord_toNat]
  omega

@[simp] theorem fieldC_rWord : fieldC (rWord a b c opx i) = c := by
  have := opx.isLt
  have := i.isLt
  apply Fin.ext
  rw [fieldC_val, rWord_toNat]
  omega

@[simp] theorem fieldB_rWord : fieldB (rWord a b c opx i) = b := by
  have := opx.isLt
  have := i.isLt
  apply Fin.ext
  rw [fieldB_val, rWord_toNat]
  omega

@[simp] theorem fieldA_rWord : fieldA (rWord a b c opx i) = a := by
  have := opx.isLt
  have := i.isLt
  apply Fin.ext
  rw [fieldA_val, rWord_toNat]
  omega

end RType

/-! ### The fields of a J-type word (30_encoding.md R103) -/

section JType
variable (i : BitVec 26) (op : BitVec 6)

@[simp] theorem fieldOp_jWord : fieldOp (jWord i op) = op := by
  have := op.isLt
  have := i.isLt
  apply BitVec.eq_of_toNat_eq
  rw [fieldOp, toNat_field, jWord_toNat]
  omega

@[simp] theorem fieldImm26_jWord : fieldImm26 (jWord i op) = i := by
  have := op.isLt
  have := i.isLt
  apply BitVec.eq_of_toNat_eq
  rw [fieldImm26, toNat_field, jWord_toNat]
  omega

end JType

/-! ### The fields of a `custom` word (30_encoding.md R105) -/

section Custom
variable (n : Byte) (xC xA xB : XReg)

@[simp] theorem fieldOp_customWord : fieldOp (customWord n xC xA xB) = 0x32#6 := by
  have := n.isLt
  have := xA.flag.isLt
  have := xB.flag.isLt
  have := xC.flag.isLt
  apply BitVec.eq_of_toNat_eq
  rw [fieldOp, toNat_field, customWord_toNat]
  simp only [BitVec.toNat_ofNat]
  omega

@[simp] theorem fieldN_customWord : fieldN (customWord n xC xA xB) = n := by
  have := n.isLt
  have := xA.flag.isLt
  have := xB.flag.isLt
  have := xC.flag.isLt
  apply BitVec.eq_of_toNat_eq
  rw [fieldN, toNat_field, customWord_toNat]
  omega

@[simp] theorem customWord_flagC : (customWord n xC xA xB).extractLsb' 14 1 = xC.flag := by
  have := n.isLt
  have := xA.flag.isLt
  have := xB.flag.isLt
  have := xC.flag.isLt
  apply BitVec.eq_of_toNat_eq
  rw [toNat_field, customWord_toNat]
  omega

@[simp] theorem customWord_flagB : (customWord n xC xA xB).extractLsb' 15 1 = xB.flag := by
  have := n.isLt
  have := xA.flag.isLt
  have := xB.flag.isLt
  have := xC.flag.isLt
  apply BitVec.eq_of_toNat_eq
  rw [toNat_field, customWord_toNat]
  omega

@[simp] theorem customWord_flagA : (customWord n xC xA xB).extractLsb' 16 1 = xA.flag := by
  have := n.isLt
  have := xA.flag.isLt
  have := xB.flag.isLt
  have := xC.flag.isLt
  apply BitVec.eq_of_toNat_eq
  rw [toNat_field, customWord_toNat]
  omega

@[simp] theorem fieldC_customWord : fieldC (customWord n xC xA xB) = xC.index := by
  have := n.isLt
  have := xA.flag.isLt
  have := xB.flag.isLt
  have := xC.flag.isLt
  apply Fin.ext
  rw [fieldC_val, customWord_toNat]
  omega

@[simp] theorem fieldB_customWord : fieldB (customWord n xC xA xB) = xB.index := by
  have := n.isLt
  have := xA.flag.isLt
  have := xB.flag.isLt
  have := xC.flag.isLt
  apply Fin.ext
  rw [fieldB_val, customWord_toNat]
  omega

@[simp] theorem fieldA_customWord : fieldA (customWord n xC xA xB) = xA.index := by
  have := n.isLt
  have := xA.flag.isLt
  have := xB.flag.isLt
  have := xC.flag.isLt
  apply Fin.ext
  rw [fieldA_val, customWord_toNat]
  omega

end Custom

/-! ### A word rebuilt from its fields -/

/-- An I-type word is its four fields. -/
theorem iWord_fields (w : Word) : iWord (fieldA w) (fieldB w) (fieldImm16 w) (fieldOp w) = w := by
  have := w.isLt
  apply BitVec.eq_of_toNat_eq
  rw [iWord_toNat, fieldA_val, fieldB_val, fieldImm16, fieldOp, toNat_field, toNat_field]
  omega

/-- A word whose `OP` is 0x3A is its five other fields. -/
theorem rWord_fields {w : Word} (h : fieldOp w = 0x3A#6) :
    rWord (fieldA w) (fieldB w) (fieldC w) (fieldOpx w) (fieldImm5 w) = w := by
  have := w.isLt
  have h := congrArg BitVec.toNat h
  rw [fieldOp, toNat_field] at h
  apply BitVec.eq_of_toNat_eq
  rw [rWord_toNat, fieldA_val, fieldB_val, fieldC_val, fieldOpx, fieldImm5, toNat_field, toNat_field]
  simp only [BitVec.toNat_ofNat] at h
  omega

/-- A J-type word is its two fields. -/
theorem jWord_fields (w : Word) : jWord (fieldImm26 w) (fieldOp w) = w := by
  have := w.isLt
  apply BitVec.eq_of_toNat_eq
  rw [jWord_toNat, fieldImm26, fieldOp, toNat_field, toNat_field]
  omega

@[simp] theorem xreg_flag_index (x : XReg) : xreg x.flag x.index = x := by
  cases x <;> simp [xreg, XReg.flag, XReg.index]

@[simp] theorem index_xreg (f : BitVec 1) (i : Reg) : (xreg f i).index = i := by
  unfold xreg
  split <;> rfl

@[simp] theorem flag_xreg (f : BitVec 1) (i : Reg) : (xreg f i).flag = f := by
  unfold xreg
  split
  · next h => exact h.symm
  · next h =>
    have := f.isLt
    apply BitVec.eq_of_toNat_eq
    have : f.toNat ≠ 1 := fun e => h (BitVec.eq_of_toNat_eq e)
    simp only [XReg.flag, BitVec.toNat_ofNat]
    omega

/-- A `custom` word is its eight fields. -/
theorem customWord_fields {w : Word} (h : fieldOp w = 0x32#6) :
    customWord (fieldN w) (xreg (w.extractLsb' 14 1) (fieldC w)) (xreg (w.extractLsb' 16 1) (fieldA w))
      (xreg (w.extractLsb' 15 1) (fieldB w)) = w := by
  have := w.isLt
  have h := congrArg BitVec.toNat h
  rw [fieldOp, toNat_field] at h
  apply BitVec.eq_of_toNat_eq
  rw [customWord_toNat, flag_xreg, flag_xreg, flag_xreg, index_xreg, index_xreg, index_xreg, fieldA_val, fieldB_val,
    fieldC_val, fieldN, toNat_field, toNat_field, toNat_field, toNat_field]
  simp only [BitVec.toNat_ofNat] at h
  omega

/-! ### Bytes -/

/-- Four bytes put together, as a number: little-endian (20_memory.md R64). -/
theorem wordOfBytes_toNat (b0 b1 b2 b3 : Byte) :
    (wordOfBytes b0 b1 b2 b3).toNat =
      ((b3.toNat * 2 ^ 8 + b2.toNat) * 2 ^ 8 + b1.toNat) * 2 ^ 8 + b0.toNat := by
  refine (toNat_append_add (n := 8 + 8 + 8) (m := 8) _ _).trans ?_
  rw [toNat_append_add, toNat_append_add]

theorem byteOf_toNat (w : Word) (k : Nat) : (byteOf w k).toNat = w.toNat / 2 ^ (8 * k) % 2 ^ 8 := toNat_field w (8 * k) 8

/-- The four bytes of a word, put together again, are the word (20_memory.md R64). -/
@[simp] theorem wordOfBytes_byteOf (w : Word) :
    wordOfBytes (byteOf w 0) (byteOf w 1) (byteOf w 2) (byteOf w 3) = w := by
  have := w.isLt
  apply BitVec.eq_of_toNat_eq
  rw [wordOfBytes_toNat, byteOf_toNat, byteOf_toNat, byteOf_toNat, byteOf_toNat]
  omega

/-! ### The decoder -/

/-- Decoding the bytes of a word is decoding the word. -/
theorem decode_bytesOf (w : Word) (rest : List Byte) :
    decode (bytesOf w ++ rest) = (decodeWord w).map fun i => (i, rest) := by
  simp only [bytesOf, List.cons_append, List.nil_append, decode, wordOfBytes_byteOf]
  cases decodeWord w <;> rfl

/-- The decoder answers only when the check of the fixed fields holds. -/
theorem strictly_eq_ok {ok : Bool} {w : Word} {i j : Instr} (h : strictly ok w i = .ok j) : ok = true ∧ i = j := by
  unfold strictly at h
  split at h
  · next hok => exact ⟨hok, by simpa using h⟩
  · cases h

@[simp] theorem strictly_true (w : Word) (i : Instr) : strictly true w i = .ok i := rfl

@[simp] theorem strictly_false (w : Word) (i : Instr) : strictly false w i = .error (.fixedField w) := rfl

end Sys2Proof
end

