-- ==== Sys2Proof/Laws/State.lean ====
section
/-! SUPPORT. One lemma per field per update of the state, and the register file's two laws. -/

namespace Sys2Proof.Machine

/-! ### The register file -/

/-- `r0` always reads 0 (10_state.md R21). -/
@[simp] theorem State.readReg_zero (s : State) : s.readReg 0 = 0#32 := rfl

/-- Reading a register depends on the register file alone. -/
theorem State.readReg_congr {s t : State} (h : t.gpr = s.gpr) (q : Reg) : t.readReg q = s.readReg q := by
  unfold State.readReg
  split
  · rfl
  · simp only [h]

/-- A write to `r0` has no effect (10_state.md R21). -/
@[simp] theorem State.writeReg_zero (s : State) (v : Word) : s.writeReg 0 v = s := rfl

/-- Reading a register after a write. -/
theorem State.readReg_writeReg (s : State) (r q : Reg) (v : Word) :
    (s.writeReg r v).readReg q = if q = r ∧ q ≠ 0 then v else s.readReg q := by
  obtain ⟨r, hr⟩ := r
  obtain ⟨q, hq⟩ := q
  cases r with
  | zero =>
    rcases q with _ | q
    · simp [State.writeReg]
    · simp [State.writeReg, Fin.ext_iff]
  | succ r =>
    cases q with
    | zero => simp [State.readReg]
    | succ q => simp [State.readReg, State.writeReg, Vector.getElem_set, Fin.ext_iff, eq_comm]

/-! ### Writing a register -/

@[simp] theorem State.writeReg_cfg (s : State) (r : Reg) (v : Word) :
    (s.writeReg r v).cfg = s.cfg := by unfold State.writeReg; split <;> rfl

@[simp] theorem State.writeReg_pc (s : State) (r : Reg) (v : Word) :
    (s.writeReg r v).pc = s.pc := by unfold State.writeReg; split <;> rfl

@[simp] theorem State.writeReg_status (s : State) (r : Reg) (v : Word) :
    (s.writeReg r v).status = s.status := by unfold State.writeReg; split <;> rfl

@[simp] theorem State.writeReg_estatus (s : State) (r : Reg) (v : Word) :
    (s.writeReg r v).estatus = s.estatus := by unfold State.writeReg; split <;> rfl

@[simp] theorem State.writeReg_bstatus (s : State) (r : Reg) (v : Word) :
    (s.writeReg r v).bstatus = s.bstatus := by unfold State.writeReg; split <;> rfl

@[simp] theorem State.writeReg_ienable (s : State) (r : Reg) (v : Word) :
    (s.writeReg r v).ienable = s.ienable := by unfold State.writeReg; split <;> rfl

@[simp] theorem State.writeReg_inDebug (s : State) (r : Reg) (v : Word) :
    (s.writeReg r v).inDebug = s.inDebug := by unfold State.writeReg; split <;> rfl

@[simp] theorem State.writeReg_mem (s : State) (r : Reg) (v : Word) :
    (s.writeReg r v).mem = s.mem := by unfold State.writeReg; split <;> rfl

@[simp] theorem State.writeReg_irq (s : State) (r : Reg) (v : Word) :
    (s.writeReg r v).irq = s.irq := by unfold State.writeReg; split <;> rfl

@[simp] theorem State.writeReg_custom (s : State) (r : Reg) (v : Word) :
    (s.writeReg r v).custom = s.custom := by unfold State.writeReg; split <;> rfl

@[simp] theorem State.writeReg_stored (s : State) (r : Reg) (v : Word) :
    (s.writeReg r v).stored = s.stored := by unfold State.writeReg; split <;> rfl

@[simp] theorem State.writeReg_views (s : State) (r : Reg) (v : Word) :
    (s.writeReg r v).views = s.views := by unfold State.writeReg; split <;> rfl

@[simp] theorem State.writeReg_ioLog (s : State) (r : Reg) (v : Word) :
    (s.writeReg r v).ioLog = s.ioLog := by unfold State.writeReg; split <;> rfl

@[simp] theorem State.writeReg_inputs (s : State) (r : Reg) (v : Word) :
    (s.writeReg r v).inputs = s.inputs := by unfold State.writeReg; split <;> rfl

@[simp] theorem State.writeReg_draws (s : State) (r : Reg) (v : Word) :
    (s.writeReg r v).draws = s.draws := by unfold State.writeReg; split <;> rfl

/-! ### Advancing the program counter -/

@[simp] theorem State.advance_cfg (s : State) : (s.advance).cfg = s.cfg := rfl

@[simp] theorem State.advance_pc (s : State) : (s.advance).pc = s.pc + 4#32 := rfl

@[simp] theorem State.advance_gpr (s : State) : (s.advance).gpr = s.gpr := rfl

@[simp] theorem State.advance_status (s : State) : (s.advance).status = s.status := rfl

@[simp] theorem State.advance_estatus (s : State) : (s.advance).estatus = s.estatus := rfl

@[simp] theorem State.advance_bstatus (s : State) : (s.advance).bstatus = s.bstatus := rfl

@[simp] theorem State.advance_ienable (s : State) : (s.advance).ienable = s.ienable := rfl

@[simp] theorem State.advance_inDebug (s : State) : (s.advance).inDebug = s.inDebug := rfl

@[simp] theorem State.advance_mem (s : State) : (s.advance).mem = s.mem := rfl

@[simp] theorem State.advance_irq (s : State) : (s.advance).irq = s.irq := rfl

@[simp] theorem State.advance_custom (s : State) : (s.advance).custom = s.custom := rfl

@[simp] theorem State.advance_stored (s : State) : (s.advance).stored = s.stored := rfl

@[simp] theorem State.advance_views (s : State) : (s.advance).views = s.views := rfl

@[simp] theorem State.advance_ioLog (s : State) : (s.advance).ioLog = s.ioLog := rfl

@[simp] theorem State.advance_inputs (s : State) : (s.advance).inputs = s.inputs := rfl

@[simp] theorem State.advance_draws (s : State) : (s.advance).draws = s.draws := rfl

@[simp] theorem State.advance_readReg (s : State) (q : Reg) :
    (s.advance).readReg q = s.readReg q := State.readReg_congr (by simp) q

/-! ### Drawing a free value -/

@[simp] theorem State.drawn_cfg (s : State) : (s.drawn).cfg = s.cfg := rfl

@[simp] theorem State.drawn_pc (s : State) : (s.drawn).pc = s.pc := rfl

@[simp] theorem State.drawn_gpr (s : State) : (s.drawn).gpr = s.gpr := rfl

@[simp] theorem State.drawn_status (s : State) : (s.drawn).status = s.status := rfl

@[simp] theorem State.drawn_estatus (s : State) : (s.drawn).estatus = s.estatus := rfl

@[simp] theorem State.drawn_bstatus (s : State) : (s.drawn).bstatus = s.bstatus := rfl

@[simp] theorem State.drawn_ienable (s : State) : (s.drawn).ienable = s.ienable := rfl

@[simp] theorem State.drawn_inDebug (s : State) : (s.drawn).inDebug = s.inDebug := rfl

@[simp] theorem State.drawn_mem (s : State) : (s.drawn).mem = s.mem := rfl

@[simp] theorem State.drawn_irq (s : State) : (s.drawn).irq = s.irq := rfl

@[simp] theorem State.drawn_custom (s : State) : (s.drawn).custom = s.custom := rfl

@[simp] theorem State.drawn_stored (s : State) : (s.drawn).stored = s.stored := rfl

@[simp] theorem State.drawn_views (s : State) : (s.drawn).views = s.views := rfl

@[simp] theorem State.drawn_ioLog (s : State) : (s.drawn).ioLog = s.ioLog := rfl

@[simp] theorem State.drawn_inputs (s : State) : (s.drawn).inputs = s.inputs := rfl

@[simp] theorem State.drawn_draws (s : State) : (s.drawn).draws = s.draws + 1 := rfl

@[simp] theorem State.drawn_readReg (s : State) (q : Reg) :
    (s.drawn).readReg q = s.readReg q := State.readReg_congr (by simp) q

/-! ### Taking an exception -/

@[simp] theorem State.exceptionEntry_cfg (s : State) (ret : Word) :
    (s.exceptionEntry ret).cfg = s.cfg := by simp [State.exceptionEntry]

@[simp] theorem State.exceptionEntry_pc (s : State) (ret : Word) :
    (s.exceptionEntry ret).pc = exceptionAddr s.cfg := by simp [State.exceptionEntry]

@[simp] theorem State.exceptionEntry_status (s : State) (ret : Word) :
    (s.exceptionEntry ret).status = { pie := false, u := false } := by simp [State.exceptionEntry]

@[simp] theorem State.exceptionEntry_estatus (s : State) (ret : Word) :
    (s.exceptionEntry ret).estatus = s.status := by simp [State.exceptionEntry]

@[simp] theorem State.exceptionEntry_bstatus (s : State) (ret : Word) :
    (s.exceptionEntry ret).bstatus = s.bstatus := by simp [State.exceptionEntry]

@[simp] theorem State.exceptionEntry_ienable (s : State) (ret : Word) :
    (s.exceptionEntry ret).ienable = s.ienable := by simp [State.exceptionEntry]

@[simp] theorem State.exceptionEntry_inDebug (s : State) (ret : Word) :
    (s.exceptionEntry ret).inDebug = s.inDebug := by simp [State.exceptionEntry]

@[simp] theorem State.exceptionEntry_mem (s : State) (ret : Word) :
    (s.exceptionEntry ret).mem = s.mem := by simp [State.exceptionEntry]

@[simp] theorem State.exceptionEntry_irq (s : State) (ret : Word) :
    (s.exceptionEntry ret).irq = s.irq := by simp [State.exceptionEntry]

@[simp] theorem State.exceptionEntry_custom (s : State) (ret : Word) :
    (s.exceptionEntry ret).custom = s.custom := by simp [State.exceptionEntry]

@[simp] theorem State.exceptionEntry_stored (s : State) (ret : Word) :
    (s.exceptionEntry ret).stored = s.stored := by simp [State.exceptionEntry]

@[simp] theorem State.exceptionEntry_views (s : State) (ret : Word) :
    (s.exceptionEntry ret).views = s.views := by simp [State.exceptionEntry]

@[simp] theorem State.exceptionEntry_ioLog (s : State) (ret : Word) :
    (s.exceptionEntry ret).ioLog = s.ioLog := by simp [State.exceptionEntry]

@[simp] theorem State.exceptionEntry_inputs (s : State) (ret : Word) :
    (s.exceptionEntry ret).inputs = s.inputs := by simp [State.exceptionEntry]

@[simp] theorem State.exceptionEntry_draws (s : State) (ret : Word) :
    (s.exceptionEntry ret).draws = s.draws := by simp [State.exceptionEntry]

/-! ### Taking a break -/

@[simp] theorem State.breakEntry_cfg (s : State) (ret : Word) :
    (s.breakEntry ret).cfg = s.cfg := by simp [State.breakEntry]

@[simp] theorem State.breakEntry_pc (s : State) (ret : Word) :
    (s.breakEntry ret).pc = breakAddr s.cfg := by simp [State.breakEntry]

@[simp] theorem State.breakEntry_status (s : State) (ret : Word) :
    (s.breakEntry ret).status = { pie := false, u := false } := by simp [State.breakEntry]

@[simp] theorem State.breakEntry_estatus (s : State) (ret : Word) :
    (s.breakEntry ret).estatus = s.estatus := by simp [State.breakEntry]

@[simp] theorem State.breakEntry_bstatus (s : State) (ret : Word) :
    (s.breakEntry ret).bstatus = s.status := by simp [State.breakEntry]

@[simp] theorem State.breakEntry_ienable (s : State) (ret : Word) :
    (s.breakEntry ret).ienable = s.ienable := by simp [State.breakEntry]

@[simp] theorem State.breakEntry_inDebug (s : State) (ret : Word) :
    (s.breakEntry ret).inDebug = true := by simp [State.breakEntry]

@[simp] theorem State.breakEntry_mem (s : State) (ret : Word) :
    (s.breakEntry ret).mem = s.mem := by simp [State.breakEntry]

@[simp] theorem State.breakEntry_irq (s : State) (ret : Word) :
    (s.breakEntry ret).irq = s.irq := by simp [State.breakEntry]

@[simp] theorem State.breakEntry_custom (s : State) (ret : Word) :
    (s.breakEntry ret).custom = s.custom := by simp [State.breakEntry]

@[simp] theorem State.breakEntry_stored (s : State) (ret : Word) :
    (s.breakEntry ret).stored = s.stored := by simp [State.breakEntry]

@[simp] theorem State.breakEntry_views (s : State) (ret : Word) :
    (s.breakEntry ret).views = s.views := by simp [State.breakEntry]

@[simp] theorem State.breakEntry_ioLog (s : State) (ret : Word) :
    (s.breakEntry ret).ioLog = s.ioLog := by simp [State.breakEntry]

@[simp] theorem State.breakEntry_inputs (s : State) (ret : Word) :
    (s.breakEntry ret).inputs = s.inputs := by simp [State.breakEntry]

@[simp] theorem State.breakEntry_draws (s : State) (ret : Word) :
    (s.breakEntry ret).draws = s.draws := by simp [State.breakEntry]

/-! ### Drawing for an access to a peripheral -/

@[simp] theorem State.afterAccess_cfg (s : State) (p : Word) (width : AccessWidth) :
    (s.afterAccess p width).cfg = s.cfg := rfl

@[simp] theorem State.afterAccess_pc (s : State) (p : Word) (width : AccessWidth) :
    (s.afterAccess p width).pc = s.pc := rfl

@[simp] theorem State.afterAccess_gpr (s : State) (p : Word) (width : AccessWidth) :
    (s.afterAccess p width).gpr = s.gpr := rfl

@[simp] theorem State.afterAccess_status (s : State) (p : Word) (width : AccessWidth) :
    (s.afterAccess p width).status = s.status := rfl

@[simp] theorem State.afterAccess_estatus (s : State) (p : Word) (width : AccessWidth) :
    (s.afterAccess p width).estatus = s.estatus := rfl

@[simp] theorem State.afterAccess_bstatus (s : State) (p : Word) (width : AccessWidth) :
    (s.afterAccess p width).bstatus = s.bstatus := rfl

@[simp] theorem State.afterAccess_ienable (s : State) (p : Word) (width : AccessWidth) :
    (s.afterAccess p width).ienable = s.ienable := rfl

@[simp] theorem State.afterAccess_inDebug (s : State) (p : Word) (width : AccessWidth) :
    (s.afterAccess p width).inDebug = s.inDebug := rfl

@[simp] theorem State.afterAccess_mem (s : State) (p : Word) (width : AccessWidth) :
    (s.afterAccess p width).mem = s.mem := rfl

@[simp] theorem State.afterAccess_irq (s : State) (p : Word) (width : AccessWidth) :
    (s.afterAccess p width).irq = s.irq := rfl

@[simp] theorem State.afterAccess_custom (s : State) (p : Word) (width : AccessWidth) :
    (s.afterAccess p width).custom = s.custom := rfl

@[simp] theorem State.afterAccess_stored (s : State) (p : Word) (width : AccessWidth) :
    (s.afterAccess p width).stored = s.stored := rfl

@[simp] theorem State.afterAccess_views (s : State) (p : Word) (width : AccessWidth) :
    (s.afterAccess p width).views = s.views := rfl

@[simp] theorem State.afterAccess_ioLog (s : State) (p : Word) (width : AccessWidth) :
    (s.afterAccess p width).ioLog = s.ioLog := rfl

@[simp] theorem State.afterAccess_inputs (s : State) (p : Word) (width : AccessWidth) :
    (s.afterAccess p width).inputs = s.inputs := rfl

@[simp] theorem State.afterAccess_draws (s : State) (p : Word) (width : AccessWidth) :
    (s.afterAccess p width).draws = s.draws + (if touchesPeripheral s.cfg p width then 1 else 0) := rfl

@[simp] theorem State.afterAccess_readReg (s : State) (p : Word) (width : AccessWidth) (q : Reg) :
    (s.afterAccess p width).readReg q = s.readReg q := State.readReg_congr (by simp) q

/-! ### Recording a bus transfer -/

@[simp] theorem State.logged_cfg (s : State) (io : Bool) (t : IoTransfer) : (s.logged io t).cfg = s.cfg := rfl

@[simp] theorem State.logged_pc (s : State) (io : Bool) (t : IoTransfer) : (s.logged io t).pc = s.pc := rfl

@[simp] theorem State.logged_gpr (s : State) (io : Bool) (t : IoTransfer) : (s.logged io t).gpr = s.gpr := rfl

@[simp] theorem State.logged_status (s : State) (io : Bool) (t : IoTransfer) :
    (s.logged io t).status = s.status := rfl

@[simp] theorem State.logged_estatus (s : State) (io : Bool) (t : IoTransfer) :
    (s.logged io t).estatus = s.estatus := rfl

@[simp] theorem State.logged_bstatus (s : State) (io : Bool) (t : IoTransfer) :
    (s.logged io t).bstatus = s.bstatus := rfl

@[simp] theorem State.logged_ienable (s : State) (io : Bool) (t : IoTransfer) :
    (s.logged io t).ienable = s.ienable := rfl

@[simp] theorem State.logged_inDebug (s : State) (io : Bool) (t : IoTransfer) :
    (s.logged io t).inDebug = s.inDebug := rfl

@[simp] theorem State.logged_mem (s : State) (io : Bool) (t : IoTransfer) : (s.logged io t).mem = s.mem := rfl

@[simp] theorem State.logged_irq (s : State) (io : Bool) (t : IoTransfer) : (s.logged io t).irq = s.irq := rfl

@[simp] theorem State.logged_custom (s : State) (io : Bool) (t : IoTransfer) :
    (s.logged io t).custom = s.custom := rfl

@[simp] theorem State.logged_stored (s : State) (io : Bool) (t : IoTransfer) :
    (s.logged io t).stored = s.stored := rfl

@[simp] theorem State.logged_views (s : State) (io : Bool) (t : IoTransfer) :
    (s.logged io t).views = s.views := rfl

@[simp] theorem State.logged_ioLog (s : State) (io : Bool) (t : IoTransfer) :
    (s.logged io t).ioLog = if io then t :: s.ioLog else s.ioLog := rfl

@[simp] theorem State.logged_inputs (s : State) (io : Bool) (t : IoTransfer) :
    (s.logged io t).inputs = s.inputs := rfl

@[simp] theorem State.logged_draws (s : State) (io : Bool) (t : IoTransfer) :
    (s.logged io t).draws = s.draws := rfl

@[simp] theorem State.logged_readReg (s : State) (io : Bool) (t : IoTransfer) (q : Reg) :
    (s.logged io t).readReg q = s.readReg q := State.readReg_congr (by simp) q

/-! ### Recording a stored word -/

@[simp] theorem State.noteStore_cfg (s : State) (io : Bool) (p : Word) : (s.noteStore io p).cfg = s.cfg := rfl

@[simp] theorem State.noteStore_pc (s : State) (io : Bool) (p : Word) : (s.noteStore io p).pc = s.pc := rfl

@[simp] theorem State.noteStore_gpr (s : State) (io : Bool) (p : Word) : (s.noteStore io p).gpr = s.gpr := rfl

@[simp] theorem State.noteStore_status (s : State) (io : Bool) (p : Word) :
    (s.noteStore io p).status = s.status := rfl

@[simp] theorem State.noteStore_estatus (s : State) (io : Bool) (p : Word) :
    (s.noteStore io p).estatus = s.estatus := rfl

@[simp] theorem State.noteStore_bstatus (s : State) (io : Bool) (p : Word) :
    (s.noteStore io p).bstatus = s.bstatus := rfl

@[simp] theorem State.noteStore_ienable (s : State) (io : Bool) (p : Word) :
    (s.noteStore io p).ienable = s.ienable := rfl

@[simp] theorem State.noteStore_inDebug (s : State) (io : Bool) (p : Word) :
    (s.noteStore io p).inDebug = s.inDebug := rfl

@[simp] theorem State.noteStore_mem (s : State) (io : Bool) (p : Word) : (s.noteStore io p).mem = s.mem := rfl

@[simp] theorem State.noteStore_irq (s : State) (io : Bool) (p : Word) : (s.noteStore io p).irq = s.irq := rfl

@[simp] theorem State.noteStore_custom (s : State) (io : Bool) (p : Word) :
    (s.noteStore io p).custom = s.custom := rfl

@[simp] theorem State.noteStore_views (s : State) (io : Bool) (p : Word) :
    (s.noteStore io p).views = s.views := rfl

@[simp] theorem State.noteStore_ioLog (s : State) (io : Bool) (p : Word) :
    (s.noteStore io p).ioLog = s.ioLog := rfl

@[simp] theorem State.noteStore_inputs (s : State) (io : Bool) (p : Word) :
    (s.noteStore io p).inputs = s.inputs := rfl

@[simp] theorem State.noteStore_draws (s : State) (io : Bool) (p : Word) :
    (s.noteStore io p).draws = s.draws := rfl

@[simp] theorem State.noteStore_readReg (s : State) (io : Bool) (p : Word) (q : Reg) :
    (s.noteStore io p).readReg q = s.readReg q := State.readReg_congr (by simp) q

/-! ### Recording the way of an access -/

@[simp] theorem State.viewed_cfg (s : State) (io : Bool) (p : Word) (width : AccessWidth) :
    (s.viewed io p width).cfg = s.cfg := rfl

@[simp] theorem State.viewed_pc (s : State) (io : Bool) (p : Word) (width : AccessWidth) :
    (s.viewed io p width).pc = s.pc := rfl

@[simp] theorem State.viewed_gpr (s : State) (io : Bool) (p : Word) (width : AccessWidth) :
    (s.viewed io p width).gpr = s.gpr := rfl

@[simp] theorem State.viewed_status (s : State) (io : Bool) (p : Word) (width : AccessWidth) :
    (s.viewed io p width).status = s.status := rfl

@[simp] theorem State.viewed_estatus (s : State) (io : Bool) (p : Word) (width : AccessWidth) :
    (s.viewed io p width).estatus = s.estatus := rfl

@[simp] theorem State.viewed_bstatus (s : State) (io : Bool) (p : Word) (width : AccessWidth) :
    (s.viewed io p width).bstatus = s.bstatus := rfl

@[simp] theorem State.viewed_ienable (s : State) (io : Bool) (p : Word) (width : AccessWidth) :
    (s.viewed io p width).ienable = s.ienable := rfl

@[simp] theorem State.viewed_inDebug (s : State) (io : Bool) (p : Word) (width : AccessWidth) :
    (s.viewed io p width).inDebug = s.inDebug := rfl

@[simp] theorem State.viewed_mem (s : State) (io : Bool) (p : Word) (width : AccessWidth) :
    (s.viewed io p width).mem = s.mem := rfl

@[simp] theorem State.viewed_irq (s : State) (io : Bool) (p : Word) (width : AccessWidth) :
    (s.viewed io p width).irq = s.irq := rfl

@[simp] theorem State.viewed_custom (s : State) (io : Bool) (p : Word) (width : AccessWidth) :
    (s.viewed io p width).custom = s.custom := rfl

@[simp] theorem State.viewed_stored (s : State) (io : Bool) (p : Word) (width : AccessWidth) :
    (s.viewed io p width).stored = s.stored := rfl

@[simp] theorem State.viewed_ioLog (s : State) (io : Bool) (p : Word) (width : AccessWidth) :
    (s.viewed io p width).ioLog = s.ioLog := rfl

@[simp] theorem State.viewed_inputs (s : State) (io : Bool) (p : Word) (width : AccessWidth) :
    (s.viewed io p width).inputs = s.inputs := rfl

@[simp] theorem State.viewed_draws (s : State) (io : Bool) (p : Word) (width : AccessWidth) :
    (s.viewed io p width).draws = s.draws := rfl

@[simp] theorem State.viewed_readReg (s : State) (io : Bool) (p : Word) (width : AccessWidth) (q : Reg) :
    (s.viewed io p width).readReg q = s.readReg q := State.readReg_congr (by simp) q

/-! ### Writing back a data cache line -/

@[simp] theorem State.flushDataLine_cfg (s : State) (p : Word) :
    (s.flushDataLine p).cfg = s.cfg := by unfold State.flushDataLine; split <;> rfl

@[simp] theorem State.flushDataLine_pc (s : State) (p : Word) :
    (s.flushDataLine p).pc = s.pc := by unfold State.flushDataLine; split <;> rfl

@[simp] theorem State.flushDataLine_gpr (s : State) (p : Word) :
    (s.flushDataLine p).gpr = s.gpr := by unfold State.flushDataLine; split <;> rfl

@[simp] theorem State.flushDataLine_status (s : State) (p : Word) :
    (s.flushDataLine p).status = s.status := by unfold State.flushDataLine; split <;> rfl

@[simp] theorem State.flushDataLine_estatus (s : State) (p : Word) :
    (s.flushDataLine p).estatus = s.estatus := by unfold State.flushDataLine; split <;> rfl

@[simp] theorem State.flushDataLine_bstatus (s : State) (p : Word) :
    (s.flushDataLine p).bstatus = s.bstatus := by unfold State.flushDataLine; split <;> rfl

@[simp] theorem State.flushDataLine_ienable (s : State) (p : Word) :
    (s.flushDataLine p).ienable = s.ienable := by unfold State.flushDataLine; split <;> rfl

@[simp] theorem State.flushDataLine_inDebug (s : State) (p : Word) :
    (s.flushDataLine p).inDebug = s.inDebug := by unfold State.flushDataLine; split <;> rfl

@[simp] theorem State.flushDataLine_mem (s : State) (p : Word) :
    (s.flushDataLine p).mem = s.mem := by unfold State.flushDataLine; split <;> rfl

@[simp] theorem State.flushDataLine_irq (s : State) (p : Word) :
    (s.flushDataLine p).irq = s.irq := by unfold State.flushDataLine; split <;> rfl

@[simp] theorem State.flushDataLine_custom (s : State) (p : Word) :
    (s.flushDataLine p).custom = s.custom := by unfold State.flushDataLine; split <;> rfl

@[simp] theorem State.flushDataLine_ioLog (s : State) (p : Word) :
    (s.flushDataLine p).ioLog = s.ioLog := by unfold State.flushDataLine; split <;> rfl

@[simp] theorem State.flushDataLine_inputs (s : State) (p : Word) :
    (s.flushDataLine p).inputs = s.inputs := by unfold State.flushDataLine; split <;> rfl

@[simp] theorem State.flushDataLine_draws (s : State) (p : Word) :
    (s.flushDataLine p).draws = s.draws := by unfold State.flushDataLine; split <;> rfl

@[simp] theorem State.flushDataLine_readReg (s : State) (p : Word) (q : Reg) :
    (s.flushDataLine p).readReg q = s.readReg q := State.readReg_congr (by simp) q

/-! ### Invalidating a data cache line -/

@[simp] theorem State.invalidateDataLine_cfg (s : State) (p : Word) :
    (s.invalidateDataLine p).cfg = s.cfg := by unfold State.invalidateDataLine; split <;> rfl

@[simp] theorem State.invalidateDataLine_pc (s : State) (p : Word) :
    (s.invalidateDataLine p).pc = s.pc := by unfold State.invalidateDataLine; split <;> rfl

@[simp] theorem State.invalidateDataLine_gpr (s : State) (p : Word) :
    (s.invalidateDataLine p).gpr = s.gpr := by unfold State.invalidateDataLine; split <;> rfl

@[simp] theorem State.invalidateDataLine_status (s : State) (p : Word) :
    (s.invalidateDataLine p).status = s.status := by unfold State.invalidateDataLine; split <;> rfl

@[simp] theorem State.invalidateDataLine_estatus (s : State) (p : Word) :
    (s.invalidateDataLine p).estatus = s.estatus := by unfold State.invalidateDataLine; split <;> rfl

@[simp] theorem State.invalidateDataLine_bstatus (s : State) (p : Word) :
    (s.invalidateDataLine p).bstatus = s.bstatus := by unfold State.invalidateDataLine; split <;> rfl

@[simp] theorem State.invalidateDataLine_ienable (s : State) (p : Word) :
    (s.invalidateDataLine p).ienable = s.ienable := by unfold State.invalidateDataLine; split <;> rfl

@[simp] theorem State.invalidateDataLine_inDebug (s : State) (p : Word) :
    (s.invalidateDataLine p).inDebug = s.inDebug := by unfold State.invalidateDataLine; split <;> rfl

@[simp] theorem State.invalidateDataLine_mem (s : State) (p : Word) :
    (s.invalidateDataLine p).mem = s.mem := by unfold State.invalidateDataLine; split <;> rfl

@[simp] theorem State.invalidateDataLine_irq (s : State) (p : Word) :
    (s.invalidateDataLine p).irq = s.irq := by unfold State.invalidateDataLine; split <;> rfl

@[simp] theorem State.invalidateDataLine_custom (s : State) (p : Word) :
    (s.invalidateDataLine p).custom = s.custom := by unfold State.invalidateDataLine; split <;> rfl

@[simp] theorem State.invalidateDataLine_stored (s : State) (p : Word) :
    (s.invalidateDataLine p).stored = s.stored := by unfold State.invalidateDataLine; split <;> rfl

@[simp] theorem State.invalidateDataLine_ioLog (s : State) (p : Word) :
    (s.invalidateDataLine p).ioLog = s.ioLog := by unfold State.invalidateDataLine; split <;> rfl

@[simp] theorem State.invalidateDataLine_inputs (s : State) (p : Word) :
    (s.invalidateDataLine p).inputs = s.inputs := by unfold State.invalidateDataLine; split <;> rfl

@[simp] theorem State.invalidateDataLine_draws (s : State) (p : Word) :
    (s.invalidateDataLine p).draws = s.draws := by unfold State.invalidateDataLine; split <;> rfl

@[simp] theorem State.invalidateDataLine_readReg (s : State) (p : Word) (q : Reg) :
    (s.invalidateDataLine p).readReg q = s.readReg q := State.readReg_congr (by simp) q

/-! ### Invalidating an instruction cache line -/

@[simp] theorem State.invalidateInstructionLine_cfg (s : State) (p : Word) :
    (s.invalidateInstructionLine p).cfg = s.cfg := by unfold State.invalidateInstructionLine; split <;> rfl

@[simp] theorem State.invalidateInstructionLine_pc (s : State) (p : Word) :
    (s.invalidateInstructionLine p).pc = s.pc := by unfold State.invalidateInstructionLine; split <;> rfl

@[simp] theorem State.invalidateInstructionLine_gpr (s : State) (p : Word) :
    (s.invalidateInstructionLine p).gpr = s.gpr := by unfold State.invalidateInstructionLine; split <;> rfl

@[simp] theorem State.invalidateInstructionLine_status (s : State) (p : Word) :
    (s.invalidateInstructionLine p).status = s.status := by unfold State.invalidateInstructionLine; split <;> rfl

@[simp] theorem State.invalidateInstructionLine_estatus (s : State) (p : Word) :
    (s.invalidateInstructionLine p).estatus = s.estatus := by unfold State.invalidateInstructionLine; split <;> rfl

@[simp] theorem State.invalidateInstructionLine_bstatus (s : State) (p : Word) :
    (s.invalidateInstructionLine p).bstatus = s.bstatus := by unfold State.invalidateInstructionLine; split <;> rfl

@[simp] theorem State.invalidateInstructionLine_ienable (s : State) (p : Word) :
    (s.invalidateInstructionLine p).ienable = s.ienable := by unfold State.invalidateInstructionLine; split <;> rfl

@[simp] theorem State.invalidateInstructionLine_inDebug (s : State) (p : Word) :
    (s.invalidateInstructionLine p).inDebug = s.inDebug := by unfold State.invalidateInstructionLine; split <;> rfl

@[simp] theorem State.invalidateInstructionLine_mem (s : State) (p : Word) :
    (s.invalidateInstructionLine p).mem = s.mem := by unfold State.invalidateInstructionLine; split <;> rfl

@[simp] theorem State.invalidateInstructionLine_irq (s : State) (p : Word) :
    (s.invalidateInstructionLine p).irq = s.irq := by unfold State.invalidateInstructionLine; split <;> rfl

@[simp] theorem State.invalidateInstructionLine_custom (s : State) (p : Word) :
    (s.invalidateInstructionLine p).custom = s.custom := by unfold State.invalidateInstructionLine; split <;> rfl

@[simp] theorem State.invalidateInstructionLine_views (s : State) (p : Word) :
    (s.invalidateInstructionLine p).views = s.views := by unfold State.invalidateInstructionLine; split <;> rfl

@[simp] theorem State.invalidateInstructionLine_ioLog (s : State) (p : Word) :
    (s.invalidateInstructionLine p).ioLog = s.ioLog := by unfold State.invalidateInstructionLine; split <;> rfl

@[simp] theorem State.invalidateInstructionLine_inputs (s : State) (p : Word) :
    (s.invalidateInstructionLine p).inputs = s.inputs := by unfold State.invalidateInstructionLine; split <;> rfl

@[simp] theorem State.invalidateInstructionLine_draws (s : State) (p : Word) :
    (s.invalidateInstructionLine p).draws = s.draws := by unfold State.invalidateInstructionLine; split <;> rfl

@[simp] theorem State.invalidateInstructionLine_readReg (s : State) (p : Word) (q : Reg) :
    (s.invalidateInstructionLine p).readReg q = s.readReg q := State.readReg_congr (by simp) q

/-! ### Discarding prefetched instructions -/

@[simp] theorem State.flushPipeline_cfg (s : State) : (s.flushPipeline).cfg = s.cfg := rfl

@[simp] theorem State.flushPipeline_pc (s : State) : (s.flushPipeline).pc = s.pc := rfl

@[simp] theorem State.flushPipeline_gpr (s : State) : (s.flushPipeline).gpr = s.gpr := rfl

@[simp] theorem State.flushPipeline_status (s : State) : (s.flushPipeline).status = s.status := rfl

@[simp] theorem State.flushPipeline_estatus (s : State) : (s.flushPipeline).estatus = s.estatus := rfl

@[simp] theorem State.flushPipeline_bstatus (s : State) : (s.flushPipeline).bstatus = s.bstatus := rfl

@[simp] theorem State.flushPipeline_ienable (s : State) : (s.flushPipeline).ienable = s.ienable := rfl

@[simp] theorem State.flushPipeline_inDebug (s : State) : (s.flushPipeline).inDebug = s.inDebug := rfl

@[simp] theorem State.flushPipeline_mem (s : State) : (s.flushPipeline).mem = s.mem := rfl

@[simp] theorem State.flushPipeline_irq (s : State) : (s.flushPipeline).irq = s.irq := rfl

@[simp] theorem State.flushPipeline_custom (s : State) : (s.flushPipeline).custom = s.custom := rfl

@[simp] theorem State.flushPipeline_views (s : State) : (s.flushPipeline).views = s.views := rfl

@[simp] theorem State.flushPipeline_ioLog (s : State) : (s.flushPipeline).ioLog = s.ioLog := rfl

@[simp] theorem State.flushPipeline_inputs (s : State) : (s.flushPipeline).inputs = s.inputs := rfl

@[simp] theorem State.flushPipeline_draws (s : State) : (s.flushPipeline).draws = s.draws := rfl

@[simp] theorem State.flushPipeline_readReg (s : State) (q : Reg) :
    (s.flushPipeline).readReg q = s.readReg q := State.readReg_congr (by simp) q

/-! ### The result of a custom instruction -/

@[simp] theorem State.customWrite_cfg (s : State) (xC : XReg) (out : Word × CustomLogic) :
    (s.customWrite xC out).cfg = s.cfg := by unfold State.customWrite; split <;> simp

@[simp] theorem State.customWrite_pc (s : State) (xC : XReg) (out : Word × CustomLogic) :
    (s.customWrite xC out).pc = s.pc := by unfold State.customWrite; split <;> simp

@[simp] theorem State.customWrite_status (s : State) (xC : XReg) (out : Word × CustomLogic) :
    (s.customWrite xC out).status = s.status := by unfold State.customWrite; split <;> simp

@[simp] theorem State.customWrite_estatus (s : State) (xC : XReg) (out : Word × CustomLogic) :
    (s.customWrite xC out).estatus = s.estatus := by unfold State.customWrite; split <;> simp

@[simp] theorem State.customWrite_bstatus (s : State) (xC : XReg) (out : Word × CustomLogic) :
    (s.customWrite xC out).bstatus = s.bstatus := by unfold State.customWrite; split <;> simp

@[simp] theorem State.customWrite_ienable (s : State) (xC : XReg) (out : Word × CustomLogic) :
    (s.customWrite xC out).ienable = s.ienable := by unfold State.customWrite; split <;> simp

@[simp] theorem State.customWrite_inDebug (s : State) (xC : XReg) (out : Word × CustomLogic) :
    (s.customWrite xC out).inDebug = s.inDebug := by unfold State.customWrite; split <;> simp

@[simp] theorem State.customWrite_mem (s : State) (xC : XReg) (out : Word × CustomLogic) :
    (s.customWrite xC out).mem = s.mem := by unfold State.customWrite; split <;> simp

@[simp] theorem State.customWrite_irq (s : State) (xC : XReg) (out : Word × CustomLogic) :
    (s.customWrite xC out).irq = s.irq := by unfold State.customWrite; split <;> simp

@[simp] theorem State.customWrite_stored (s : State) (xC : XReg) (out : Word × CustomLogic) :
    (s.customWrite xC out).stored = s.stored := by unfold State.customWrite; split <;> simp

@[simp] theorem State.customWrite_views (s : State) (xC : XReg) (out : Word × CustomLogic) :
    (s.customWrite xC out).views = s.views := by unfold State.customWrite; split <;> simp

@[simp] theorem State.customWrite_ioLog (s : State) (xC : XReg) (out : Word × CustomLogic) :
    (s.customWrite xC out).ioLog = s.ioLog := by unfold State.customWrite; split <;> simp

@[simp] theorem State.customWrite_inputs (s : State) (xC : XReg) (out : Word × CustomLogic) :
    (s.customWrite xC out).inputs = s.inputs := by unfold State.customWrite; split <;> simp

@[simp] theorem State.customWrite_draws (s : State) (xC : XReg) (out : Word × CustomLogic) :
    (s.customWrite xC out).draws = s.draws := by unfold State.customWrite; split <;> simp

/-! ### A debug tool's change -/

@[simp] theorem State.edit_cfg (s : State) (e : DebugEdit) :
    (s.edit e).cfg = s.cfg := by cases e <;> simp [State.edit]

@[simp] theorem State.edit_inDebug (s : State) (e : DebugEdit) :
    (s.edit e).inDebug = s.inDebug := by cases e <;> simp [State.edit]

@[simp] theorem State.edit_mem (s : State) (e : DebugEdit) :
    (s.edit e).mem = s.mem := by cases e <;> simp [State.edit]

@[simp] theorem State.edit_irq (s : State) (e : DebugEdit) :
    (s.edit e).irq = s.irq := by cases e <;> simp [State.edit]

@[simp] theorem State.edit_stored (s : State) (e : DebugEdit) :
    (s.edit e).stored = s.stored := by cases e <;> simp [State.edit]

@[simp] theorem State.edit_views (s : State) (e : DebugEdit) :
    (s.edit e).views = s.views := by cases e <;> simp [State.edit]

@[simp] theorem State.edit_ioLog (s : State) (e : DebugEdit) :
    (s.edit e).ioLog = s.ioLog := by cases e <;> simp [State.edit]

@[simp] theorem State.edit_inputs (s : State) (e : DebugEdit) :
    (s.edit e).inputs = s.inputs := by cases e <;> simp [State.edit]

@[simp] theorem State.edit_draws (s : State) (e : DebugEdit) :
    (s.edit e).draws = s.draws := by cases e <;> simp [State.edit]

/-! ### Registers after an entry -/

/-- Taking an exception writes `ea` alone (60_exceptions.md R290, R291). -/
theorem State.exceptionEntry_readReg (s : State) (ret : Word) (q : Reg) :
    (s.exceptionEntry ret).readReg q = if q = 29 then ret else s.readReg q := by
  have h := State.readReg_writeReg { s with estatus := s.status, status := { pie := false, u := false } } 29 q ret
  rw [show (s.exceptionEntry ret).readReg q =
    (State.writeReg { s with estatus := s.status, status := { pie := false, u := false } } 29 ret).readReg q from
    State.readReg_congr rfl q, h]
  by_cases hq : q = 29
  · subst hq; simp
  · simp [hq, State.readReg_congr (s := s) (t := { s with estatus := s.status, status := { pie := false, u := false } }) rfl q]

/-- Taking a break writes `ba` alone (60_exceptions.md R310). -/
theorem State.breakEntry_readReg (s : State) (ret : Word) (q : Reg) :
    (s.breakEntry ret).readReg q = if q = 30 then ret else s.readReg q := by
  have h := State.readReg_writeReg { s with bstatus := s.status, status := { pie := false, u := false } } 30 q ret
  rw [show (s.breakEntry ret).readReg q =
    (State.writeReg { s with bstatus := s.status, status := { pie := false, u := false } } 30 ret).readReg q from
    State.readReg_congr rfl q, h]
  by_cases hq : q = 30
  · subst hq; simp
  · simp [hq, State.readReg_congr (s := s) (t := { s with bstatus := s.status, status := { pie := false, u := false } }) rfl q]

end Sys2Proof.Machine
end

