-- ==== Sys2Proof/Laws/Memory.lean ====
section
/-! SUPPORT. The laws of memory: reading after writing, the canonical form, and the bytes a value
stored little-endian reaches. -/

namespace Sys2Proof.Machine

/-! ### One byte -/

/-- Below every listed address nothing is listed. -/
theorem Memory.read_blank_of_lt (m : Memory) (a : Word) (h : ∀ c ∈ m, a.toNat < c.1) : m.read a = blankByte := by
  induction m with
  | nil => rfl
  | cons c rest ih =>
    obtain ⟨k, b⟩ := c
    have hk : a.toNat < k := h (k, b) (by simp)
    simp only [Memory.read, if_neg (by omega : ¬ k = a.toNat)]
    exact ih fun c hc => h c (by simp [hc])

/-- What the canonical form says of a list with a first entry. -/
theorem Memory.wf_cons {k : Nat} {b : Byte} {rest : Memory} :
    Memory.wf ((k, b) :: rest) ↔
      (∀ c ∈ rest, k < c.1) ∧ (k < 2 ^ 32 ∧ b ≠ blankByte) ∧ Memory.wf rest := by
  simp only [Memory.wf, List.map_cons, List.pairwise_cons, List.forall_mem_cons, List.forall_mem_map]
  tauto

/-- Every entry after a write was there before or is the byte written. -/
theorem Memory.mem_write {m : Memory} {a : Word} {b : Byte} {c : Host.Cell} (h : c ∈ m.write a b) :
    c ∈ m ∨ (c = (a.toNat, b) ∧ b ≠ blankByte) := by
  induction m with
  | nil =>
    unfold Memory.write at h
    split at h <;> simp_all
  | cons e rest ih =>
    obtain ⟨k, d⟩ := e
    unfold Memory.write at h
    split at h
    · rcases List.mem_cons.mp h with h | h
      · simp [h]
      · rcases ih h with h | h <;> simp [h]
    · split at h
      · split at h <;> simp_all
        rcases h with h | h <;> simp [h]
      · split at h
        · exact .inl h
        · rcases List.mem_cons.mp h with h | h <;> simp_all

/-- A write keeps the canonical form. -/
theorem Memory.write_wf {m : Memory} (h : m.wf) (a : Word) (b : Byte) : (m.write a b).wf := by
  induction m with
  | nil =>
    unfold Memory.write
    split
    · exact h
    · next hb => exact Memory.wf_cons.mpr ⟨by simp, ⟨a.isLt, hb⟩, h⟩
  | cons e rest ih =>
    obtain ⟨k, d⟩ := e
    obtain ⟨hlt, hd, hrest⟩ := Memory.wf_cons.mp h
    unfold Memory.write
    split
    · next hk =>
      refine Memory.wf_cons.mpr ⟨fun c hc => ?_, hd, ih hrest⟩
      rcases Memory.mem_write hc with hc | hc
      · exact hlt c hc
      · simp [hc.1, hk]
    · split
      · split
        · exact hrest
        · next hb => exact Memory.wf_cons.mpr ⟨hlt, ⟨hd.1, hb⟩, hrest⟩
      · split
        · exact h
        · next hb =>
          refine Memory.wf_cons.mpr ⟨fun c hc => ?_, ⟨a.isLt, hb⟩, h⟩
          rcases List.mem_cons.mp hc with hc | hc
          · subst hc; simp only; omega
          · have := hlt c hc; omega

/-- Reading a byte after a write: the byte written at its address, every other as before. -/
theorem Memory.read_write {m : Memory} (h : m.wf) (a x : Word) (b : Byte) :
    (m.write a b).read x = if x = a then b else m.read x := by
  induction m with
  | nil =>
    unfold Memory.write
    by_cases hx : x = a
    · subst hx; split <;> simp_all [Memory.read]
    · have : a.toNat ≠ x.toNat := fun e => hx (BitVec.eq_of_toNat_eq e).symm
      split <;> simp [Memory.read, this]
  | cons e rest ih =>
    obtain ⟨k, d⟩ := e
    obtain ⟨hlt, hd, hrest⟩ := Memory.wf_cons.mp h
    have below (hk : ∀ c ∈ rest, x.toNat < c.1) : Memory.read rest x = blankByte :=
      Memory.read_blank_of_lt rest x hk
    unfold Memory.write
    by_cases hx : x = a
    · subst hx
      simp only [if_true]
      split
      · next hk => rw [Memory.read, if_neg (by omega), ih hrest, if_pos rfl]
      · split
        · next hk =>
          split
          · next hb => rw [below fun c hc => by have := hlt c hc; omega, hb]
          · rw [Memory.read, if_pos hk]
        · split
          · next hk hb =>
            rw [Memory.read, if_neg (by assumption), below fun c hc => by have := hlt c hc; omega, hb]
          · rw [Memory.read, if_pos rfl]
    · have hax : a.toNat ≠ x.toNat := fun e => hx (BitVec.eq_of_toNat_eq e).symm
      simp only [if_neg hx]
      split
      · next hk => simp only [Memory.read, ih hrest, if_neg hx]
      · split
        · next hk =>
          have hkx : k ≠ x.toNat := by omega
          split <;> simp [Memory.read, hkx]
        · split
          · rfl
          · simp [Memory.read, hax]

/-- The empty memory has the canonical form. -/
theorem Memory.nil_wf : Memory.wf [] := by decide

/-- Memory right after reset has the canonical form. -/
theorem State.reset_mem_wf : State.reset.mem.wf := Memory.nil_wf

/-! ### Stored bytes and values -/

theorem storeByte_wf {m : Memory} (h : m.wf) (c : Config) (p : Word) (b : Byte) : (storeByte c m p b).wf := by
  unfold storeByte
  split
  · exact Memory.write_wf h p b
  · exact h

theorem storeByte_inside {c : Config} {m : Memory} (h : m.inside c) (p : Word) (b : Byte) :
    (storeByte c m p b).inside c := by
  unfold storeByte
  split
  · next hk =>
    intro e he
    rcases Memory.mem_write he with he | he
    · exact h e he
    · simpa [he.1] using hk
  · exact h

/-- Reading after storing one byte. -/
theorem storeByte_read {m : Memory} (h : m.wf) (c : Config) (p x : Word) (b : Byte) :
    (storeByte c m p b).read x = if x = p ∧ kindAt c p = some .memory then b else m.read x := by
  unfold storeByte
  split
  · next hk => simp [Memory.read_write h, hk]
  · next hk => simp [show kindAt c p ≠ some .memory from hk]

theorem storeValue_wf {m : Memory} (h : m.wf) (c : Config) (p v : Word) (width : AccessWidth) :
    (storeValue c m p v width).wf := by
  cases width <;> simp only [storeValue] <;> repeat' apply storeByte_wf
  all_goals exact h

theorem storeValue_inside {c : Config} {m : Memory} (h : m.inside c) (p v : Word) (width : AccessWidth) :
    (storeValue c m p v width).inside c := by
  cases width <;> simp only [storeValue] <;> repeat' apply storeByte_inside
  all_goals exact h

/-- Reading after storing a value: byte `k` of the value at `p + k` for the width's bytes that lie in
memory, every other byte as before (20_memory.md R64, R71). -/
theorem storeValue_read {m : Memory} (h : m.wf) (c : Config) (p v x : Word) (width : AccessWidth) :
    (storeValue c m p v width).read x =
      if (x - p).toNat < width.bytes ∧ kindAt c x = some .memory then byteOf v (x - p).toNat else m.read x := by
  have h0 := storeByte_wf h c p (byteOf v 0)
  have h1 := storeByte_wf h0 c (p + 1#32) (byteOf v 1)
  have h2 := storeByte_wf h1 c (p + 2#32) (byteOf v 2)
  have e0 : (x - p).toNat = 0 ↔ x = p := by constructor <;> intro h <;> bv_omega
  have e1 : (x - p).toNat = 1 ↔ x = p + 1#32 := by constructor <;> intro h <;> bv_omega
  have e2 : (x - p).toNat = 2 ↔ x = p + 2#32 := by constructor <;> intro h <;> bv_omega
  have e3 : (x - p).toNat = 3 ↔ x = p + 3#32 := by constructor <;> intro h <;> bv_omega
  cases width
  · simp only [storeValue, storeByte_read h, AccessWidth.bytes, Nat.lt_one_iff, e0]
    by_cases hx : x = p <;> simp [hx]
  · simp only [storeValue, storeByte_read h0, storeByte_read h, AccessWidth.bytes,
      show ∀ n, n < 2 ↔ n = 0 ∨ n = 1 by omega, e0, e1]
    by_cases hx : x = p
    · subst hx; simp
    · by_cases hy : x = p + 1#32
      · subst hy; simp
      · simp [hx, hy]
  · simp only [storeValue, storeByte_read h2, storeByte_read h1, storeByte_read h0, storeByte_read h, AccessWidth.bytes,
      show ∀ n, n < 4 ↔ n = 0 ∨ n = 1 ∨ n = 2 ∨ n = 3 by omega, e0, e1, e2, e3]
    by_cases hx : x = p
    · subst hx; simp
    · by_cases hy : x = p + 1#32
      · subst hy; simp
      · by_cases hz : x = p + 2#32
        · subst hz; simp
        · by_cases hw : x = p + 3#32
          · subst hw; simp
          · simp [hx, hy, hz, hw]

/-- Other masters' writes are made one after another (20_memory.md R87). -/
theorem externalWrites_append (c : Config) (l k : List (Word × Byte)) (m : Memory) :
    externalWrites c m (l ++ k) = externalWrites c (externalWrites c m l) k := by
  induction l generalizing m with
  | nil => rfl
  | cons e rest ih => exact ih (storeByte c m e.1 e.2)

theorem externalWrites_wf (c : Config) (l : List (Word × Byte)) {m : Memory} (h : m.wf) :
    (externalWrites c m l).wf := by
  induction l generalizing m with
  | nil => exact h
  | cons e rest ih => exact ih (storeByte_wf h c e.1 e.2)

theorem externalWrites_inside {c : Config} (l : List (Word × Byte)) {m : Memory} (h : m.inside c) :
    (externalWrites c m l).inside c := by
  induction l generalizing m with
  | nil => exact h
  | cons e rest ih => exact ih (storeByte_inside h e.1 e.2)

end Sys2Proof.Machine
end

