-- ==== Sys2Proof/Laws/Effects.lean ====
section
/-! SUPPORT. For each shared operation, once, everything it does when it answers, in the words of
Safety.lean; and when it stops. -/

namespace Sys2Proof.Machine

/-! ### Outcomes -/

@[simp] theorem andThen_next {α β : Type} (a : α) (f : α → Host.Outcome β Fault Refusal) :
    andThen (.next a) f = f a := rfl

@[simp] theorem andThen_fault {α β : Type} (r : Fault) (f : α → Host.Outcome β Fault Refusal) :
    andThen (.fault r) f = .fault r := rfl

@[simp] theorem andThen_refused {α β : Type} (r : Refusal) (f : α → Host.Outcome β Fault Refusal) :
    andThen (.refused r) f = .refused r := rfl

/-- What follows answers only if what went before did. -/
theorem andThen_eq_next {α β : Type} {o : Host.Outcome α Fault Refusal} {f : α → Host.Outcome β Fault Refusal}
    {t : β} (h : andThen o f = .next t) : ∃ a, o = .next a ∧ f a = .next t := by
  cases o with
  | next a => exact ⟨a, rfl, h⟩
  | fault r => simp at h
  | refused r => simp at h

/-! ### The register file and the program counter -/

/-- A register write as the claims state it. -/
theorem State.writeReg_regsAfter (s : State) (r : Reg) (v : Word) : s.RegsAfter (s.writeReg r v) r v :=
  fun q => State.readReg_writeReg s r q v

/-- The end of an ordinary instruction. -/
theorem State.finish_writesOnly (s : State) (r : Reg) (v : Word) : WritesOnly (s.finish r v) s r v := by
  refine ⟨_, rfl, by simp, fun q => ?_, ?_, fun a => by simp, ?_⟩
  · simpa using s.readReg_writeReg r q v
  · constructor <;> simp
  · constructor <;> simp

/-- An ordinary instruction that draws a free value. -/
theorem State.drawn_finish_writesFree (s : State) (r : Reg) :
    WritesFree (s.drawn.finish r (Config.freeWord s.draws)) s r := by
  refine ⟨_, rfl, by simp, fun q => ?_, ?_, fun a => by simp, by simp, by simp, by simp, by simp, by simp, by simp,
    by simp⟩
  · simpa using s.drawn.readReg_writeReg r q _
  · constructor <;> simp

/-- Going on at the next word without any other effect. -/
theorem State.advance_movesTo (s : State) : MovesTo (.next s.advance) s (s.pc + 4#32) := by
  refine ⟨_, rfl, by simp, fun q => by simp, ?_, fun a => by simp, ?_⟩
  · constructor <;> simp
  · constructor <;> simp

/-- The multiples of 4. -/
theorem wordAligned_iff (a : Word) : wordAligned a = true ↔ a.toNat % 4 = 0 := by
  simp only [wordAligned, beq_iff_eq, ← BitVec.toNat_inj, BitVec.extractLsb'_toNat]
  simp

theorem State.jump_next {s : State} {t : Word} (h : t.toNat % 4 = 0) : s.jump t = .next { s with pc := t } := by
  unfold State.jump
  rw [if_pos ((wordAligned_iff t).mpr h)]

theorem State.jump_refused {s : State} {t : Word} (h : t.toNat % 4 ≠ 0) : s.jump t = .refused (.misalignedPc t) := by
  unfold State.jump
  rw [if_neg fun h' => h ((wordAligned_iff t).mp h')]

/-- A jump that answers goes to an aligned target and changes the program counter alone. -/
theorem State.jump_eq_next {s u : State} {t : Word} (h : s.jump t = .next u) :
    t.toNat % 4 = 0 ∧ u = { s with pc := t } := by
  by_cases ht : t.toNat % 4 = 0
  · rw [State.jump_next ht] at h
    exact ⟨ht, by simpa using h.symm⟩
  · rw [State.jump_refused ht] at h
    cases h

theorem State.jump_movesTo {s : State} {t : Word} (h : t.toNat % 4 = 0) : MovesTo (s.jump t) s t := by
  rw [State.jump_next h]
  exact ⟨_, rfl, rfl, fun q => State.readReg_congr (s := s) (t := { s with pc := t }) rfl q,
    ⟨rfl, rfl, rfl, rfl, rfl, rfl⟩, fun _ => rfl, ⟨rfl, rfl, rfl, rfl, rfl, rfl, rfl⟩⟩

/-- A jump after a register write. -/
theorem State.writeReg_jump_transfers {s : State} {t : Word} (h : t.toNat % 4 = 0) (r : Reg) (v : Word) :
    Transfers ((s.writeReg r v).jump t) s t r v := by
  rw [State.jump_next h]
  refine ⟨_, rfl, rfl, fun q => ?_, by constructor <;> simp, fun a => by simp, by constructor <;> simp⟩
  rw [State.readReg_congr (s := s.writeReg r v) (t := { s.writeReg r v with pc := t }) rfl q]
  exact s.readReg_writeReg r q v

/-! ### Exceptions and breaks -/

/-- Taking an exception, as 60_exceptions.md R290 and R291 say it. -/
theorem State.exceptionEntry_takesException (s : State) (ret : Word) :
    TakesException (.next (s.exceptionEntry ret)) s ret := by
  refine ⟨_, rfl, by simp, by simp [StatusBits.clear], fun q => ?_, by simp [exceptionAddr], by simp, by simp, by simp,
    by simp, fun a => by simp, by constructor <;> simp⟩
  rw [State.exceptionEntry_readReg]
  by_cases hq : q = 29
  · subst hq; simp
  · simp [hq]

/-- Taking a break, as 60_exceptions.md R310 says it. -/
theorem State.breakEntry_takesBreak (s : State) (ret : Word) : TakesBreak (.next (s.breakEntry ret)) s ret := by
  refine ⟨_, rfl, by simp, by simp [StatusBits.clear], fun q => ?_, by simp [breakAddr], by simp, by simp, by simp,
    by simp, fun a => by simp, by constructor <;> simp⟩
  rw [State.breakEntry_readReg]
  by_cases hq : q = 30
  · subst hq; simp
  · simp [hq]

/-- In user mode the exception is taken instead of the body. -/
theorem State.privileged_of_user {s : State} (h : s.status.u = true) (body : Result) :
    s.privileged body = .next (s.exceptionEntry (s.pc + 4#32)) := by simp [State.privileged, h]

theorem State.privileged_of_supervisor {s : State} (h : s.status.u = false) (body : Result) :
    s.privileged body = body := by simp [State.privileged, h]

/-- A privileged instruction answers by the exception or by its body. -/
theorem State.privileged_eq_next {s t : State} {body : Result} (h : s.privileged body = .next t) :
    (s.status.u = true ∧ t = s.exceptionEntry (s.pc + 4#32)) ∨ (s.status.u = false ∧ body = .next t) := by
  cases hu : s.status.u
  · exact .inr ⟨rfl, by rwa [State.privileged_of_supervisor hu] at h⟩
  · rw [State.privileged_of_user hu] at h
    exact .inl ⟨rfl, by simpa using h.symm⟩

@[simp] theorem State.unlessAbsent_true (s : State) (body : Result) :
    s.unlessAbsent true body = .next (s.exceptionEntry (s.pc + 4#32)) := rfl

@[simp] theorem State.unlessAbsent_false (s : State) (body : Result) : s.unlessAbsent false body = body := rfl

/-- A potentially unimplemented instruction answers by the exception or by its body. -/
theorem State.unlessAbsent_eq_next {s t : State} {absent : Bool} {body : Result}
    (h : s.unlessAbsent absent body = .next t) :
    (absent = true ∧ t = s.exceptionEntry (s.pc + 4#32)) ∨ (absent = false ∧ body = .next t) := by
  cases absent
  · exact .inr ⟨rfl, h⟩
  · exact .inl ⟨rfl, by simpa using h.symm⟩

/-! ### The address map -/

theorem mapped_iff (c : Config) (p : Word) (width : AccessWidth) : mapped c p width = true ↔ AllMapped c p width := by
  simp [mapped, kindsAt, AllMapped, Option.isSome_iff_ne_none]

theorem touchesPeripheral_iff (c : Config) (p : Word) (width : AccessWidth) :
    touchesPeripheral c p width = true ↔
      ∃ i, i < width.bytes ∧ kindAt c (p + BitVec.ofNat 32 i) = some .peripheral := by
  simp [touchesPeripheral, kindsAt]

theorem InMemory.allMapped {c : Config} {p : Word} {width : AccessWidth} (h : InMemory c p width) :
    AllMapped c p width := fun i hi => by simp [h i hi]

/-- An access that is memory throughout reaches no peripheral. -/
theorem InMemory.touches {c : Config} {p : Word} {width : AccessWidth} (h : InMemory c p width) :
    touchesPeripheral c p width = false := by
  rw [Bool.eq_false_iff]
  intro h'
  obtain ⟨i, hi, hk⟩ := (touchesPeripheral_iff c p width).mp h'
  simp [h i hi] at hk

theorem aligned_iff (a : Word) (width : AccessWidth) : aligned a width = true ↔ Aligned a width := by
  cases width
  · simp [aligned, Aligned, AccessWidth.bytes, Nat.mod_one]
  · simp only [aligned, Aligned, AccessWidth.bytes, beq_iff_eq, ← BitVec.toNat_inj, BitVec.extractLsb'_toNat]
    simp
  · exact wordAligned_iff a

/-! ### The two ways to memory -/

/-- The bytes of memory within an access, each recorded with the given way. -/
theorem mem_viewedBytes {c : Config} {io : Bool} {p : Word} {width : AccessWidth} {v : ViewedByte} :
    v ∈ viewedBytes c io p width ↔
      v.io = io ∧ kindAt c v.addr = some .memory ∧ (v.addr - p).toNat < width.bytes := by
  obtain ⟨a, b⟩ := v
  have hw : width.bytes ≤ 4 := by cases width <;> decide
  simp only [viewedBytes, List.mem_map, List.mem_filter, List.mem_range, beq_iff_eq, ViewedByte.mk.injEq]
  constructor
  · rintro ⟨_, ⟨⟨i, hi, rfl⟩, hk⟩, rfl, rfl⟩
    refine ⟨rfl, hk, ?_⟩
    rw [show p + BitVec.ofNat 32 i - p = BitVec.ofNat 32 i by bv_omega, BitVec.toNat_ofNat]
    omega
  · rintro ⟨rfl, hk, hi⟩
    exact ⟨a, ⟨⟨_, hi, by rw [BitVec.ofNat_toNat, BitVec.setWidth_eq]; bv_omega⟩, hk⟩, rfl, rfl⟩

theorem State.mixes_iff (s : State) (io : Bool) (addr : Word) (width : AccessWidth) :
    s.mixes (io || bypasses s.cfg addr) (dataAddr s.cfg addr) width = true ↔ s.Mixes io addr width := by
  simp only [State.mixes, State.Mixes, Bool.and_eq_true, List.any_eq_true, mem_viewedBytes, List.contains_iff_mem,
    Option.isSome_iff_ne_none]
  refine and_congr_right fun _ => ⟨?_, ?_⟩
  · rintro ⟨⟨a, b⟩, ⟨rfl, hk, hn⟩, hm⟩
    exact ⟨a, hn, hk, hm⟩
  · rintro ⟨a, hn, hk, hm⟩
    exact ⟨_, ⟨rfl, hk, hn⟩, hm⟩

/-- A core without a data cache has one way to memory. -/
theorem State.not_mixes_of_no_cache {s : State} (h : s.cfg.dcacheLine = none) (io : Bool) (addr : Word)
    (width : AccessWidth) : ¬ s.Mixes io addr width := fun hx => hx.1 h

/-- What the record of an access holds. -/
theorem State.mem_viewed {s : State} {io : Bool} {p : Word} {width : AccessWidth} {v : ViewedByte} :
    v ∈ (s.viewed io p width).views ↔ v ∈ s.views ∨
      (s.cfg.dcacheLine ≠ none ∧ v.io = io ∧ kindAt s.cfg v.addr = some .memory ∧ (v.addr - p).toNat < width.bytes) := by
  rw [← mem_viewedBytes, ← Option.isSome_iff_ne_none]
  cases hc : s.cfg.dcacheLine.isSome <;> simp [State.viewed, hc]
  tauto

/-! ### Loads -/

/-- What a byte access gets is what the claims call the answered byte. -/
theorem State.loadByte_eq (s : State) (p : Word) (i : Nat) : s.loadByte p i = s.answeredByte p i := by
  unfold State.loadByte State.answeredByte byteOf
  split
  · next h => simp [h]
  · next h => rw [if_neg h]

/-- A load that is aligned, mapped and mixes nothing answers. -/
theorem State.load_next {s : State} {io : Bool} {addr : Word} {width : AccessWidth} (ha : Aligned addr width)
    (hm : AllMapped s.cfg (dataAddr s.cfg addr) width) (hx : ¬ s.Mixes io addr width) :
    s.load io addr width = .next (s.loadValue (dataAddr s.cfg addr) width, s.afterLoad io addr width) := by
  simp [State.load, (aligned_iff addr width).mpr ha, (mapped_iff _ _ _).mpr hm,
    Bool.eq_false_iff.mpr fun h => hx ((s.mixes_iff io addr width).mp h)]

theorem State.load_misaligned {s : State} {addr : Word} {width : AccessWidth} (ha : ¬ Aligned addr width)
    (io : Bool) : s.load io addr width = .refused (.misalignedData addr) := by
  have : aligned addr width = false := by
    rw [Bool.eq_false_iff]; exact fun h => ha ((aligned_iff _ _).mp h)
  simp [State.load, this]

theorem State.load_unmapped {s : State} {addr : Word} {width : AccessWidth} (ha : Aligned addr width)
    (hm : ¬ AllMapped s.cfg (dataAddr s.cfg addr) width) (io : Bool) :
    s.load io addr width = .fault (.unmappedAddress addr) := by
  have : mapped s.cfg (dataAddr s.cfg addr) width = false := by
    rw [Bool.eq_false_iff]; exact fun h => hm ((mapped_iff _ _ _).mp h)
  simp [State.load, (aligned_iff addr width).mpr ha, this]

theorem State.load_mixed {s : State} {io : Bool} {addr : Word} {width : AccessWidth} (ha : Aligned addr width)
    (hm : AllMapped s.cfg (dataAddr s.cfg addr) width) (hx : s.Mixes io addr width) :
    s.load io addr width = .refused (.mixedAccess addr) := by
  simp [State.load, (aligned_iff addr width).mpr ha, (mapped_iff _ _ _).mpr hm, (s.mixes_iff io addr width).mpr hx]

/-- A load that answers was aligned and mapped, and mixed nothing. -/
theorem State.load_eq_next {s : State} {io : Bool} {addr : Word} {width : AccessWidth} {r : Word × State}
    (h : s.load io addr width = .next r) :
    Aligned addr width ∧ AllMapped s.cfg (dataAddr s.cfg addr) width ∧ ¬ s.Mixes io addr width ∧
      r = (s.loadValue (dataAddr s.cfg addr) width, s.afterLoad io addr width) := by
  by_cases ha : Aligned addr width
  · by_cases hm : AllMapped s.cfg (dataAddr s.cfg addr) width
    · by_cases hx : s.Mixes io addr width
      · rw [State.load_mixed ha hm hx] at h; cases h
      · rw [State.load_next ha hm hx] at h
        exact ⟨ha, hm, hx, by simpa using h.symm⟩
    · rw [State.load_unmapped ha hm] at h; cases h
  · rw [State.load_misaligned ha] at h; cases h

/-- Whether an access appears on the bus, as the claims say it. -/
theorem io_or_bypasses (c : Config) (io : Bool) (addr : Word) :
    (io || bypasses c addr) = true ↔ (io = true ∨ (c.bit31Bypass = true ∧ addr.getLsbD 31 = true)) := by
  simp [bypasses]

/-- The bytes a load of each width puts together, lowest address first. -/
theorem State.loadValue_byte (s : State) (p : Word) : s.loadValue p .byte = (s.answeredByte p 0).setWidth 32 := by
  simp [State.loadValue, State.loadByte_eq]

theorem State.loadValue_half (s : State) (p : Word) :
    s.loadValue p .half = (s.answeredByte p 1 ++ s.answeredByte p 0).setWidth 32 := by
  simp [State.loadValue, State.loadByte_eq]

theorem State.loadValue_word (s : State) (p : Word) :
    s.loadValue p .word =
      s.answeredByte p 3 ++ s.answeredByte p 2 ++ s.answeredByte p 1 ++ s.answeredByte p 0 := by
  simp [State.loadValue, State.loadByte_eq, wordOfBytes]

/-- A load instruction: the whole of what it does. -/
theorem State.load_finish_loads {s : State} {io : Bool} {addr : Word} {width : AccessWidth} (ha : Aligned addr width)
    (hm : AllMapped s.cfg (dataAddr s.cfg addr) width) (hx : ¬ s.Mixes io addr width) (r : Reg) (extend : Word → Word) :
    Loads (andThen (s.load io addr width) fun x => x.2.finish r (extend x.1)) s io addr width
      (s.loadValue (dataAddr s.cfg addr) width) r (extend (s.loadValue (dataAddr s.cfg addr) width)) := by
  rw [State.load_next ha hm hx]
  refine ⟨_, rfl, by simp [State.afterLoad], fun q => ?_, by constructor <;> simp [State.afterLoad],
    fun a => by simp [State.afterLoad], by simp [State.afterLoad], by simp [State.afterLoad], by simp [State.afterLoad],
    by simp [State.afterLoad], fun v => ?_, ?_, by simp [State.afterLoad]⟩
  · simpa [State.afterLoad] using State.readReg_writeReg (s.afterLoad io addr width) r q _
  · rw [State.advance_views, State.writeReg_views]
    exact State.mem_viewed (s := s.afterAccess (dataAddr s.cfg addr) width)
  · simp only [State.afterLoad, State.BusAfter, State.advance_ioLog, State.writeReg_ioLog, State.logged_ioLog,
      State.viewed_ioLog, State.afterAccess_ioLog]
    exact if_congr (io_or_bypasses s.cfg io addr) rfl rfl

/-! ### Stores -/

/-- A store that is aligned, mapped and mixes nothing answers. -/
theorem State.store_next {s : State} {io : Bool} {addr : Word} {width : AccessWidth} (ha : Aligned addr width)
    (hm : AllMapped s.cfg (dataAddr s.cfg addr) width) (hx : ¬ s.Mixes io addr width) (v : Word) :
    s.store io addr width v = .next (s.afterStore io addr width v) := by
  simp [State.store, (aligned_iff addr width).mpr ha, (mapped_iff _ _ _).mpr hm,
    Bool.eq_false_iff.mpr fun h => hx ((s.mixes_iff io addr width).mp h)]

theorem State.store_misaligned {s : State} {addr : Word} {width : AccessWidth} (ha : ¬ Aligned addr width)
    (io : Bool) (v : Word) : s.store io addr width v = .refused (.misalignedData addr) := by
  have : aligned addr width = false := by
    rw [Bool.eq_false_iff]; exact fun h => ha ((aligned_iff _ _).mp h)
  simp [State.store, this]

theorem State.store_unmapped {s : State} {addr : Word} {width : AccessWidth} (ha : Aligned addr width)
    (hm : ¬ AllMapped s.cfg (dataAddr s.cfg addr) width) (io : Bool) (v : Word) :
    s.store io addr width v = .fault (.unmappedAddress addr) := by
  have : mapped s.cfg (dataAddr s.cfg addr) width = false := by
    rw [Bool.eq_false_iff]; exact fun h => hm ((mapped_iff _ _ _).mp h)
  simp [State.store, (aligned_iff addr width).mpr ha, this]

theorem State.store_mixed {s : State} {io : Bool} {addr : Word} {width : AccessWidth} (ha : Aligned addr width)
    (hm : AllMapped s.cfg (dataAddr s.cfg addr) width) (hx : s.Mixes io addr width) (v : Word) :
    s.store io addr width v = .refused (.mixedAccess addr) := by
  simp [State.store, (aligned_iff addr width).mpr ha, (mapped_iff _ _ _).mpr hm, (s.mixes_iff io addr width).mpr hx]

/-- A store that answers was aligned and mapped, and mixed nothing. -/
theorem State.store_eq_next {s t : State} {io : Bool} {addr : Word} {width : AccessWidth} {v : Word}
    (h : s.store io addr width v = .next t) :
    Aligned addr width ∧ AllMapped s.cfg (dataAddr s.cfg addr) width ∧ ¬ s.Mixes io addr width ∧
      t = s.afterStore io addr width v := by
  by_cases ha : Aligned addr width
  · by_cases hm : AllMapped s.cfg (dataAddr s.cfg addr) width
    · by_cases hx : s.Mixes io addr width
      · rw [State.store_mixed ha hm hx] at h; cases h
      · rw [State.store_next ha hm hx] at h
        exact ⟨ha, hm, hx, by simpa using h.symm⟩
    · rw [State.store_unmapped ha hm] at h; cases h
  · rw [State.store_misaligned ha] at h; cases h

/-- A store instruction: the whole of what it does. -/
theorem State.store_advance_stores {s : State} {io : Bool} {addr : Word} {width : AccessWidth} (hwf : s.mem.wf)
    (ha : Aligned addr width) (hm : AllMapped s.cfg (dataAddr s.cfg addr) width) (hx : ¬ s.Mixes io addr width)
    (v : Word) : Stores (andThen (s.store io addr width v) fun t => .next t.advance) s io addr width v := by
  rw [State.store_next ha hm hx]
  refine ⟨_, rfl, by simp [State.afterStore], fun q => ?_, by constructor <;> simp [State.afterStore],
    by simp [State.afterStore], by simp [State.afterStore], by simp [State.afterStore], by simp [State.afterStore],
    fun a => ?_, fun e => ?_, fun e => ?_, ?_⟩
  · exact State.readReg_congr (by simp [State.afterStore]) q
  · simp only [State.afterStore, State.advance_mem, State.logged_mem, State.viewed_mem, State.noteStore_mem]
    exact storeValue_read hwf s.cfg (dataAddr s.cfg addr) v a width
  · simp only [State.afterStore, State.advance_stored, State.logged_stored, State.viewed_stored, State.noteStore,
      List.mem_cons, List.mem_filter, bne_iff_ne]
  · exact State.mem_viewed (s := ({ s with mem := _ } : State).noteStore (io || bypasses s.cfg addr) (dataAddr s.cfg addr))
  · simp only [State.afterStore, State.BusAfter, State.advance_ioLog, State.logged_ioLog, State.viewed_ioLog,
      State.noteStore_ioLog]
    exact if_congr (io_or_bypasses s.cfg io addr) rfl rfl

end Sys2Proof.Machine
end

