-- ==== Sys2Proof/Laws/Steps.lean ====
section
/-! SUPPORT. What each shared operation that can stop has done when it answers (inversion), and that
each keeps a sound state sound. -/

namespace Sys2Proof.Machine

/-! ### Control registers -/

/-- A control register read that answers reads one of the six registers and changes nothing but the
count of free values (46_other_control.md R254). -/
theorem State.readCtl_eq_next {s : State} {n : CtlNum} {r : Word × State} (h : s.readCtl n = .next r) :
    n.val ≤ 5 ∧ (r.2 = s ∨ r.2 = s.drawn) := by
  unfold State.readCtl at h
  split at h
  all_goals cases h
  all_goals exact ⟨by omega, by simp⟩

/-- A control register write that answers is one of these five (46_other_control.md R255). -/
theorem State.writeCtl_eq_next {s t : State} {n : CtlNum} {v : Word} (h : s.writeCtl n v = .next t) :
    (n = 0 ∧ t = { s with status := { pie := v.getLsbD 0, u := false } }) ∨
    (n = 1 ∧ t = { s with estatus := statusFor s.cfg (statusOfWord v) }) ∨
    (n = 2 ∧ t = { s with bstatus := statusFor s.cfg (statusOfWord v) }) ∨
    (n = 3 ∧ t = { s with ienable := v }) ∨ (n = 5 ∧ t = s) := by
  unfold State.writeCtl at h
  split at h
  · split at h
    · cases h
    · exact .inl ⟨Fin.ext (by assumption), by simpa using h.symm⟩
  · exact .inr (.inl ⟨Fin.ext (by assumption), by simpa using h.symm⟩)
  · exact .inr (.inr (.inl ⟨Fin.ext (by assumption), by simpa using h.symm⟩))
  · exact .inr (.inr (.inr (.inl ⟨Fin.ext (by assumption), by simpa using h.symm⟩)))
  · cases h
  · exact .inr (.inr (.inr (.inr ⟨Fin.ext (by assumption), by simpa using h.symm⟩)))
  · cases h

/-! ### Returns -/

theorem State.exceptionReturn_eq_next {s t : State} (h : s.exceptionReturn = .next t) :
    (s.readReg 29).toNat % 4 = 0 ∧ t = { s with status := statusFor s.cfg s.estatus, pc := s.readReg 29 } := by
  obtain ⟨ht, rfl⟩ := State.jump_eq_next h
  exact ⟨ht, rfl⟩

theorem State.breakReturn_eq_next {s t : State} (h : s.breakReturn = .next t) :
    (s.readReg 30).toNat % 4 = 0 ∧
      t = { s with status := statusFor s.cfg s.bstatus, inDebug := false, pc := s.readReg 30 } := by
  obtain ⟨ht, rfl⟩ := State.jump_eq_next h
  exact ⟨ht, rfl⟩

/-! ### The fetch -/

theorem State.fetch_next {s : State} (ha : s.pc.toNat % 4 = 0) (hm : AllMapped s.cfg s.pc .word)
    (hs : ∀ e ∈ s.stored, e.addr ≠ s.pc) :
    s.fetch = .next (s.loadValue s.pc .word, s.afterAccess s.pc .word) := by
  have : s.stored.any (·.addr == s.pc) = false := by simpa using hs
  simp [State.fetch, (wordAligned_iff s.pc).mpr ha, (mapped_iff _ _ _).mpr hm, this]

/-- A fetch that answers was aligned, mapped, and of no word stored to since the last flush
(20_memory.md R73, R89). -/
theorem State.fetch_eq_next {s : State} {r : Word × State} (h : s.fetch = .next r) :
    s.pc.toNat % 4 = 0 ∧ AllMapped s.cfg s.pc .word ∧ (∀ e ∈ s.stored, e.addr ≠ s.pc) ∧
      r = (s.loadValue s.pc .word, s.afterAccess s.pc .word) := by
  unfold State.fetch at h
  split at h
  · cases h
  · split at h
    · cases h
    · split at h
      · cases h
      · next ha hm hs =>
        exact ⟨(wordAligned_iff s.pc).mp (by simpa using ha), (mapped_iff _ _ _).mp (by simpa using hm),
          by simpa using hs, by simpa using h.symm⟩

theorem State.fetch_misaligned {s : State} (ha : s.pc.toNat % 4 ≠ 0) : s.fetch = .refused (.misalignedPc s.pc) := by
  simp [State.fetch, Bool.eq_false_iff.mpr fun h => ha ((wordAligned_iff s.pc).mp h)]

theorem State.fetch_unmapped {s : State} (ha : s.pc.toNat % 4 = 0) (hm : ¬ AllMapped s.cfg s.pc .word) :
    s.fetch = .fault (.unmappedAddress s.pc) := by
  simp [State.fetch, (wordAligned_iff s.pc).mpr ha, Bool.eq_false_iff.mpr fun h => hm ((mapped_iff _ _ _).mp h)]

/-- The fetch of a word stored to and not yet fit to be fetched (20_memory.md R89). -/
theorem State.fetch_stale {s : State} (ha : s.pc.toNat % 4 = 0) (hm : AllMapped s.cfg s.pc .word)
    (hs : ∃ e ∈ s.stored, e.addr = s.pc) : s.fetch = .refused (.staleFetch s.pc) := by
  simp [State.fetch, (wordAligned_iff s.pc).mpr ha, (mapped_iff _ _ _).mpr hm, hs]

/-! ### The boundary -/

theorem State.boundary_nil {s : State} (h : s.inputs = []) :
    s.boundary = { irq := s.irq, accept := true, hwBreak := false, writes := [], edits := [] } := by
  simp [State.boundary, h]

theorem State.boundary_cons {s : State} {b : Boundary} {rest : List Boundary} (h : s.inputs = b :: rest) :
    s.boundary = b := by simp [State.boundary, h]

/-- What a debug tool's changes leave as they were. -/
theorem State.foldl_edit_same (l : List DebugEdit) (s : State) :
    (l.foldl State.edit s).cfg = s.cfg ∧ (l.foldl State.edit s).inDebug = s.inDebug ∧
    (l.foldl State.edit s).mem = s.mem ∧ (l.foldl State.edit s).irq = s.irq ∧
    (l.foldl State.edit s).stored = s.stored ∧ (l.foldl State.edit s).views = s.views ∧
    (l.foldl State.edit s).ioLog = s.ioLog ∧ (l.foldl State.edit s).inputs = s.inputs ∧
    (l.foldl State.edit s).draws = s.draws ∧ (l.foldl State.edit s).status.u = s.status.u := by
  induction l generalizing s with
  | nil => simp
  | cons e rest ih =>
    have hu : (s.edit e).status.u = s.status.u := by cases e <;> simp [State.edit]
    simpa [hu] using ih (s.edit e)

/-- Without the JTAG debug module, or outside debug mode, a debug tool changes nothing (60_exceptions.md R312). -/
theorem State.edited_of_not {s : State} (h : (s.cfg.hasJtagDebug && s.inDebug) = false) (l : List DebugEdit) :
    s.edited l = s := by simp [State.edited, h]

/-- What the boundary leaves as it was. -/
theorem State.sampled_same (s : State) :
    s.sampled.cfg = s.cfg ∧ s.sampled.inDebug = s.inDebug ∧ s.sampled.stored = s.stored ∧
    s.sampled.views = s.views ∧ s.sampled.ioLog = s.ioLog ∧ s.sampled.draws = s.draws ∧
    s.sampled.status.u = s.status.u ∧ s.sampled.irq = s.boundary.irq ∧ s.sampled.inputs = s.inputs.tail ∧
    s.sampled.mem = externalWrites s.cfg s.mem s.boundary.writes := by
  unfold State.sampled State.edited
  split
  · obtain ⟨h1, h2, h3, h4, h5, h6, h7, h8, h9, h10⟩ := State.foldl_edit_same s.boundary.edits
      { s with irq := s.boundary.irq, mem := externalWrites s.cfg s.mem s.boundary.writes, inputs := s.inputs.tail }
    exact ⟨h1, h2, h5, h6, h7, h9, h10, h4, h8, h3⟩
  · simp

/-- Outside a debug tool's reach the boundary changes the inputs and memory alone. -/
theorem State.sampled_of_not {s : State} (h : (s.cfg.hasJtagDebug && s.inDebug) = false) :
    s.sampled = { s with irq := s.boundary.irq, mem := externalWrites s.cfg s.mem s.boundary.writes,
                         inputs := s.inputs.tail } := by
  unfold State.sampled
  exact State.edited_of_not (by simpa using h) _

/-- Without a listed boundary the boundary changes nothing (log entry 6). -/
theorem State.sampled_of_no_inputs {s : State} (h : s.inputs = []) : s.sampled = s := by
  have hb := State.boundary_nil h
  have he : s.edited [] = s := by simp [State.edited]
  obtain ⟨cfg, pc, gpr, status, estatus, bstatus, ienable, inDebug, mem, irq, custom, stored, views, ioLog, inputs, draws⟩ := s
  subst h
  simp only [State.sampled, hb, externalWrites, List.tail_nil]
  exact he

/-! ### The step -/

/-- Everything a step can do when it answers: a hardware break, a hardware interrupt, an instruction,
or an invalid word (00_scope.md R8). -/
theorem step_eq_next {s t : State} (h : step s = .next t) :
    (s.breakDemanded = true ∧ t = s.sampled.breakEntry (s.sampled.pc + 4#32)) ∨
    (s.breakDemanded = false ∧ s.interruptTaken = true ∧ t = s.sampled.exceptionEntry (s.sampled.pc + 4#32)) ∨
    (s.breakDemanded = false ∧ s.interruptTaken = false ∧ ∃ r, s.sampled.fetch = .next r ∧
      ((∃ i, decodeWord r.1 = .ok i ∧ exec i r.2 = .next t) ∨
       (∃ e, decodeWord r.1 = .error e ∧ r.2.invalidWord r.1 = .next t))) := by
  unfold step State.stepWith at h
  split at h
  · next hb => exact .inl ⟨hb, by simpa using h.symm⟩
  · next hb =>
    split at h
    · next hi => exact .inr (.inl ⟨by simpa using hb, hi, by simpa using h.symm⟩)
    · next hi =>
      obtain ⟨r, hr, hx⟩ := andThen_eq_next h
      refine .inr (.inr ⟨by simpa using hb, by simpa using hi, r, hr, ?_⟩)
      split at hx
      · next i hd => exact .inl ⟨i, hd, hx⟩
      · next e hd => exact .inr ⟨e, hd, hx⟩

/-! ### Every shared operation keeps a sound state sound -/

/-- Changes that leave what soundness speaks of. -/
theorem State.Sound.of_same {s t : State} (h : s.Sound) (hcfg : t.cfg = s.cfg) (hmem : t.mem = s.mem)
    (hstored : t.stored = s.stored) (hviews : t.views = s.views) (hpc : t.pc.toNat % 4 = 0) (hs : t.status.u = true → s.status.u = true)
    (he : t.estatus.u = true → s.estatus.u = true ∨ s.status.u = true)
    (hb : t.bstatus.u = true → s.bstatus.u = true ∨ s.status.u = true) : t.Sound := by
  refine ⟨hmem ▸ h.wf, by rw [hcfg, hmem]; exact h.inside, hpc, fun hu => ?_, hstored ▸ h.storedAligned,
    hstored ▸ h.storedOnce, hviews ▸ h.oneView⟩
  obtain ⟨h1, h2, h3⟩ := h.noUserMode (by rw [← hcfg]; exact hu)
  refine ⟨?_, ?_, ?_⟩ <;> rw [Bool.eq_false_iff] <;> intro hx
  · simp [h1] at hs; exact absurd hx (by simp [hs])
  · rcases he hx with hx | hx <;> simp_all
  · rcases hb hx with hx | hx <;> simp_all

/-- The next word is aligned when this one is. -/
theorem advance_aligned {p : Word} (h : p.toNat % 4 = 0) : (p + 4#32).toNat % 4 = 0 := by bv_omega

/-- A word address followed by two zero bits is a multiple of 4. -/
theorem word_aligned (a : BitVec 30) : (a ++ 0#2 : BitVec 32).toNat % 4 = 0 := by
  have : (a ++ 0#2 : BitVec (30 + 2)).toNat = a.toNat * 2 ^ 2 + 0 := by
    rw [BitVec.toNat_append, ← Nat.shiftLeft_add_eq_or_of_lt (0#2).isLt, Nat.shiftLeft_eq]; rfl
  show (a ++ 0#2 : BitVec (30 + 2)).toNat % 4 = 0
  omega

theorem State.Sound.advance {s : State} (h : s.Sound) : s.advance.Sound :=
  h.of_same (by simp) (by simp) (by simp) (by simp) (by simpa using advance_aligned h.pcAligned) (by simp)
    (by simp; exact .inl) (by simp; exact .inl)

theorem State.Sound.writeReg {s : State} (h : s.Sound) (r : Reg) (v : Word) : (s.writeReg r v).Sound :=
  h.of_same (by simp) (by simp) (by simp) (by simp) (by simpa using h.pcAligned) (by simp)
    (by simp; exact .inl) (by simp; exact .inl)

theorem State.Sound.drawn {s : State} (h : s.Sound) : s.drawn.Sound :=
  h.of_same rfl rfl rfl rfl h.pcAligned id .inl .inl

theorem State.Sound.afterAccess {s : State} (h : s.Sound) (p : Word) (width : AccessWidth) :
    (s.afterAccess p width).Sound := h.of_same rfl rfl rfl rfl h.pcAligned id .inl .inl

theorem State.Sound.logged {s : State} (h : s.Sound) (io : Bool) (x : IoTransfer) : (s.logged io x).Sound :=
  h.of_same rfl rfl rfl rfl h.pcAligned id .inl .inl

theorem State.Sound.exceptionEntry {s : State} (h : s.Sound) (ret : Word) : (s.exceptionEntry ret).Sound :=
  h.of_same (by simp) (by simp) (by simp) (by simp) (by simpa [exceptionAddr] using word_aligned s.cfg.exceptionWord) (by simp)
    (by simp; exact .inr) (by simp; exact .inl)

theorem State.Sound.breakEntry {s : State} (h : s.Sound) (ret : Word) : (s.breakEntry ret).Sound :=
  h.of_same (by simp) (by simp) (by simp) (by simp) (by simpa [breakAddr] using word_aligned s.cfg.breakWord) (by simp)
    (by simp; exact .inl) (by simp; exact .inr)

theorem State.Sound.jump {s u : State} {t : Word} (h : s.Sound) (hj : s.jump t = .next u) : u.Sound := by
  obtain ⟨ht, rfl⟩ := State.jump_eq_next hj
  exact h.of_same rfl rfl rfl rfl ht id .inl .inl

/-- On a core without user mode the bits a status register is given have `U` clear (60_exceptions.md R288). -/
theorem statusFor_u {c : Config} {b : StatusBits} (h : c.hasUserMode = false) : (statusFor c b).u = false := by
  simp [statusFor, h]

theorem State.Sound.of_status {s : State} (h : s.Sound) {a b c : StatusBits}
    (hu : s.cfg.hasUserMode = false → a.u = false ∧ b.u = false ∧ c.u = false) :
    ({ s with status := a, estatus := b, bstatus := c }).Sound :=
  ⟨h.wf, h.inside, h.pcAligned, hu, h.storedAligned, h.storedOnce, h.oneView⟩

theorem State.Sound.writeCtl {s t : State} {n : CtlNum} {v : Word} (h : s.Sound) (hw : s.writeCtl n v = .next t) :
    t.Sound := by
  rcases State.writeCtl_eq_next hw with ⟨-, rfl⟩ | ⟨-, rfl⟩ | ⟨-, rfl⟩ | ⟨-, rfl⟩ | ⟨-, rfl⟩
  · exact h.of_status fun hu => ⟨rfl, (h.noUserMode hu).2.1, (h.noUserMode hu).2.2⟩
  · exact h.of_status fun hu => ⟨(h.noUserMode hu).1, statusFor_u hu, (h.noUserMode hu).2.2⟩
  · exact h.of_status fun hu => ⟨(h.noUserMode hu).1, (h.noUserMode hu).2.1, statusFor_u hu⟩
  · exact h.of_same rfl rfl rfl rfl h.pcAligned id .inl .inl
  · exact h

theorem State.Sound.readCtl {s : State} {n : CtlNum} {r : Word × State} (h : s.Sound) (hr : s.readCtl n = .next r) :
    r.2.Sound := by
  rcases (State.readCtl_eq_next hr).2 with hr | hr <;> rw [hr]
  · exact h
  · exact h.drawn

theorem State.Sound.exceptionReturn {s t : State} (h : s.Sound) (hr : s.exceptionReturn = .next t) : t.Sound := by
  obtain ⟨ha, rfl⟩ := State.exceptionReturn_eq_next hr
  exact ⟨h.wf, h.inside, ha, fun hu => ⟨statusFor_u hu, (h.noUserMode hu).2⟩, h.storedAligned, h.storedOnce,
    h.oneView⟩

theorem State.Sound.breakReturn {s t : State} (h : s.Sound) (hr : s.breakReturn = .next t) : t.Sound := by
  obtain ⟨ha, rfl⟩ := State.breakReturn_eq_next hr
  exact ⟨h.wf, h.inside, ha, fun hu => ⟨statusFor_u hu, (h.noUserMode hu).2⟩, h.storedAligned, h.storedOnce,
    h.oneView⟩

/-- Recording an access that mixes nothing leaves no byte recorded both ways (20_memory.md R77). -/
theorem State.Sound.viewed {s : State} (h : s.Sound) {io : Bool} {p : Word} {width : AccessWidth}
    (hm : ¬ s.mixes io p width = true) : (s.viewed io p width).Sound := by
  have old {v w : ViewedByte} (hv : v ∈ s.views) (hc : s.cfg.dcacheLine ≠ none) (hw : w ∈ viewedBytes s.cfg io p width)
      (e : v.addr = w.addr) : v = w := by
    obtain ⟨hw1, hw2⟩ := mem_viewedBytes.mp hw
    by_cases hio : v.io = io
    · obtain ⟨a, b⟩ := v; obtain ⟨c, d⟩ := w
      simp_all
    · refine absurd ?_ hm
      simp only [State.mixes, Bool.and_eq_true, List.any_eq_true, List.contains_iff_mem]
      exact ⟨Option.isSome_iff_ne_none.mpr hc, v, mem_viewedBytes.mpr ⟨by cases io <;> simp_all, e ▸ hw2⟩, hv⟩
  refine ⟨h.wf, h.inside, h.pcAligned, h.noUserMode, h.storedAligned, h.storedOnce, fun v hv w hw e => ?_⟩
  rw [State.mem_viewed, ← mem_viewedBytes] at hv hw
  rcases hv with hv | ⟨hc, hv⟩ <;> rcases hw with hw | ⟨hc', hw⟩
  · exact h.oneView v hv w hw e
  · exact old hv hc' hw e
  · exact (old hw hc hv e.symm).symm
  · obtain ⟨a, b⟩ := v; obtain ⟨c, d⟩ := w
    have := (mem_viewedBytes.mp hv).1
    have := (mem_viewedBytes.mp hw).1
    simp_all

theorem State.Sound.load {s : State} {io : Bool} {addr : Word} {width : AccessWidth} {r : Word × State} (h : s.Sound)
    (hl : s.load io addr width = .next r) : r.2.Sound := by
  obtain ⟨-, -, hx, rfl⟩ := State.load_eq_next hl
  exact ((h.afterAccess _ _).viewed fun hm => hx ((s.mixes_iff io addr width).mp hm)).logged _ _

/-- The address of the word that holds a byte is a multiple of 4. -/
theorem wordOf_aligned (p : Word) : (wordOf p).toNat % 4 = 0 := by
  have : wordAligned (wordOf p) = true := by
    simp only [wordAligned, wordOf, beq_iff_eq]
    apply BitVec.eq_of_getLsbD_eq
    intro i hi
    have : i = 0 ∨ i = 1 := by omega
    rcases this with rfl | rfl <;> simp
  exact (wordAligned_iff _).mp this

theorem State.Sound.noteStore {s : State} (h : s.Sound) (io : Bool) (p : Word) : (s.noteStore io p).Sound := by
  refine ⟨h.wf, h.inside, h.pcAligned, h.noUserMode, fun e he => ?_, ?_, h.oneView⟩
  · simp only [State.noteStore, List.mem_cons, List.mem_filter] at he
    rcases he with rfl | he
    · exact wordOf_aligned _
    · exact h.storedAligned e he.1
  · simp only [State.noteStore, List.map_cons, List.nodup_cons]
    exact ⟨by simp, h.storedOnce.sublist (List.filter_sublist.map _)⟩

theorem State.Sound.store {s t : State} {io : Bool} {addr : Word} {width : AccessWidth} {v : Word} (h : s.Sound)
    (hs : s.store io addr width v = .next t) : t.Sound := by
  obtain ⟨-, -, hx, rfl⟩ := State.store_eq_next hs
  have hmem : ({ s with mem := storeValue s.cfg s.mem (dataAddr s.cfg addr) v width } : State).Sound :=
    ⟨storeValue_wf h.wf _ _ _ _, storeValue_inside h.inside _ _ _, h.pcAligned, h.noUserMode, h.storedAligned,
      h.storedOnce, h.oneView⟩
  exact ((hmem.noteStore _ _).viewed fun hm => hx ((s.mixes_iff io addr width).mp hm)).logged _ _

/-- Marking records leaves their addresses. -/
theorem State.Sound.of_marked {s : State} (h : s.Sound) (f : StoredWord → StoredWord) (hf : ∀ e, (f e).addr = e.addr) :
    ({ s with stored := s.stored.map f }).Sound := by
  refine ⟨h.wf, h.inside, h.pcAligned, h.noUserMode, ?_, ?_, h.oneView⟩
  · intro e he
    obtain ⟨d, hd, rfl⟩ := List.mem_map.mp he
    rw [hf]
    exact h.storedAligned d hd
  · have : (s.stored.map f).map (·.addr) = s.stored.map (·.addr) := by
      rw [List.map_map]; exact List.map_congr_left fun e _ => hf e
    exact (show ((s.stored.map f).map (·.addr)).Nodup from this ▸ h.storedOnce)

/-- Forgetting how bytes were accessed. -/
theorem State.Sound.of_forgotten {s : State} (h : s.Sound) (p : ViewedByte → Bool) :
    ({ s with views := s.views.filter p }).Sound :=
  ⟨h.wf, h.inside, h.pcAligned, h.noUserMode, h.storedAligned, h.storedOnce,
    fun v hv w hw e => h.oneView v (List.mem_filter.mp hv).1 w (List.mem_filter.mp hw).1 e⟩

theorem State.Sound.invalidateDataLine {s : State} (h : s.Sound) (p : Word) : (s.invalidateDataLine p).Sound := by
  unfold State.invalidateDataLine
  split
  · exact h
  · exact h.of_forgotten _

theorem State.Sound.flushDataLine {s : State} (h : s.Sound) (p : Word) : (s.flushDataLine p).Sound := by
  unfold State.flushDataLine
  split
  · exact h
  · exact (h.of_marked _ fun e => by unfold StoredWord.afterDataFlush; split <;> rfl).of_forgotten _

theorem State.Sound.invalidateInstructionLine {s : State} (h : s.Sound) (p : Word) :
    (s.invalidateInstructionLine p).Sound := by
  unfold State.invalidateInstructionLine
  split
  · exact h
  · exact h.of_marked _ fun e => by unfold StoredWord.afterInstructionFlush; split <;> rfl

theorem State.Sound.flushPipeline {s : State} (h : s.Sound) : s.flushPipeline.Sound :=
  ⟨h.wf, h.inside, h.pcAligned, h.noUserMode, fun e he => h.storedAligned e (List.mem_filter.mp he).1,
    h.storedOnce.sublist (List.filter_sublist.map _), h.oneView⟩

theorem State.Sound.customWrite {s : State} (h : s.Sound) (xC : XReg) (out : Word × CustomLogic) :
    (s.customWrite xC out).Sound := by
  unfold State.customWrite
  split
  · exact State.Sound.writeReg (s := { s with custom := out.2 })
      ⟨h.wf, h.inside, h.pcAligned, h.noUserMode, h.storedAligned, h.storedOnce, h.oneView⟩ _ _
  · exact ⟨h.wf, h.inside, h.pcAligned, h.noUserMode, h.storedAligned, h.storedOnce, h.oneView⟩

theorem State.Sound.edit {s : State} (h : s.Sound) (e : DebugEdit) : (s.edit e).Sound := by
  cases e with
  | gpr r v => exact h.writeReg r v
  | pcWord a => exact h.of_same rfl rfl rfl rfl (word_aligned a) id .inl .inl
  | pie b => exact h.of_same rfl rfl rfl rfl h.pcAligned id .inl .inl
  | estatus b => exact h.of_status fun hu => ⟨(h.noUserMode hu).1, statusFor_u hu, (h.noUserMode hu).2.2⟩
  | bstatus b => exact h.of_status fun hu => ⟨(h.noUserMode hu).1, (h.noUserMode hu).2.1, statusFor_u hu⟩
  | ienable v => exact h.of_same rfl rfl rfl rfl h.pcAligned id .inl .inl
  | custom l => exact h.of_same rfl rfl rfl rfl h.pcAligned id .inl .inl

theorem State.Sound.sampled {s : State} (h : s.Sound) : s.sampled.Sound := by
  have h0 : ({ s with irq := s.boundary.irq, mem := externalWrites s.cfg s.mem s.boundary.writes,
                      inputs := s.inputs.tail } : State).Sound :=
    ⟨externalWrites_wf _ _ h.wf, externalWrites_inside _ h.inside, h.pcAligned, h.noUserMode, h.storedAligned,
      h.storedOnce, h.oneView⟩
  unfold State.sampled State.edited
  split
  · generalize s.boundary.edits = l
    revert h0
    generalize ({ s with irq := s.boundary.irq, mem := externalWrites s.cfg s.mem s.boundary.writes,
                         inputs := s.inputs.tail } : State) = u
    intro h0
    induction l generalizing u with
    | nil => exact h0
    | cons e rest ih => exact ih (u.edit e) (h0.edit e)
  · exact h0

theorem State.Sound.invalidWord {s t : State} {w : Word} (h : s.Sound) (hi : s.invalidWord w = .next t) : t.Sound := by
  unfold State.invalidWord at hi
  split at hi
  · cases hi
  · have : t = s.advance := by simpa using hi.symm
    exact this ▸ h.advance
  · have : t = s.exceptionEntry (s.pc + 4#32) := by simpa using hi.symm
    exact this ▸ h.exceptionEntry _

theorem State.Sound.finish {s t : State} {r : Reg} {v : Word} (h : s.Sound) (hf : s.finish r v = .next t) : t.Sound := by
  have : t = (s.writeReg r v).advance := by simpa [State.finish] using hf.symm
  exact this ▸ (h.writeReg r v).advance

end Sys2Proof.Machine
end

