-- ==== Sys2Proof/Laws/Control.lean ====
section
/-! SUPPORT. Which shared operations leave the control registers as they were, how operands read as
numbers, and the shapes in which the results of the meanings meet the words of Safety.lean. -/

namespace Sys2Proof.Machine

/-! ### Control registers left as they were (10_state.md R38) -/

theorem State.SameControl.rfl' (s : State) : s.SameControl s := ⟨rfl, rfl, rfl, rfl, rfl, rfl⟩

theorem State.SameControl.trans {s t u : State} (h : s.SameControl t) (k : t.SameControl u) : s.SameControl u :=
  ⟨k.cfg.trans h.cfg, k.status.trans h.status, k.estatus.trans h.estatus, k.bstatus.trans h.bstatus,
    k.ienable.trans h.ienable, k.inDebug.trans h.inDebug⟩

theorem State.advance_sameControl (s : State) : s.SameControl s.advance := ⟨rfl, rfl, rfl, rfl, rfl, rfl⟩

theorem State.writeReg_sameControl (s : State) (r : Reg) (v : Word) : s.SameControl (s.writeReg r v) := by
  constructor <;> simp

theorem State.finish_sameControl {s t : State} {r : Reg} {v : Word} (h : s.finish r v = .next t) : s.SameControl t := by
  have : t = (s.writeReg r v).advance := by simpa [State.finish] using h.symm
  exact this ▸ (s.writeReg_sameControl r v).trans (State.advance_sameControl _)

theorem State.jump_sameControl {s t : State} {p : Word} (h : s.jump p = .next t) : s.SameControl t := by
  obtain ⟨-, rfl⟩ := State.jump_eq_next h
  exact ⟨rfl, rfl, rfl, rfl, rfl, rfl⟩

theorem State.load_sameControl {s : State} {io : Bool} {addr : Word} {width : AccessWidth} {r : Word × State}
    (h : s.load io addr width = .next r) : s.SameControl r.2 := by
  obtain ⟨-, -, -, rfl⟩ := State.load_eq_next h
  exact ⟨rfl, rfl, rfl, rfl, rfl, rfl⟩

theorem State.store_sameControl {s t : State} {io : Bool} {addr : Word} {width : AccessWidth} {v : Word}
    (h : s.store io addr width v = .next t) : s.SameControl t := by
  obtain ⟨-, -, -, rfl⟩ := State.store_eq_next h
  exact ⟨rfl, rfl, rfl, rfl, rfl, rfl⟩

theorem State.loadInto_sameControl {s t : State} {io : Bool} {width : AccessWidth} {extend : Word → Word} {rB : Reg}
    {imm16 : Half} {rA : Reg} (h : s.loadInto io width extend rB imm16 rA = .next t) : s.SameControl t := by
  obtain ⟨r, hr, h⟩ := andThen_eq_next h
  exact (State.load_sameControl hr).trans (State.finish_sameControl h)

theorem State.storeFrom_sameControl {s t : State} {io : Bool} {width : AccessWidth} {rB : Reg} {imm16 : Half} {rA : Reg}
    (h : s.storeFrom io width rB imm16 rA = .next t) : s.SameControl t := by
  obtain ⟨r, hr, h⟩ := andThen_eq_next h
  have : t = r.advance := by simpa using h.symm
  exact this ▸ (State.store_sameControl hr).trans r.advance_sameControl

theorem State.branchIf_sameControl {s t : State} {rel : Relation} {rA rB : Reg} {imm16 : Half}
    (h : s.branchIf rel rA rB imm16 = .next t) : s.SameControl t := by
  unfold State.branchIf at h
  split at h
  · exact State.jump_sameControl h
  · have : t = s.advance := by simpa using h.symm
    exact this ▸ s.advance_sameControl

theorem State.divide_sameControl {s t : State} {rC : Reg} {q : Option Word} (h : s.divide rC q = .next t) :
    s.SameControl t := by
  unfold State.divide at h
  split at h
  · exact State.finish_sameControl h
  · exact State.SameControl.trans (t := s.drawn) ⟨rfl, rfl, rfl, rfl, rfl, rfl⟩ (State.finish_sameControl h)

theorem State.customWrite_sameControl (s : State) (xC : XReg) (out : Word × CustomLogic) :
    s.SameControl (s.customWrite xC out) := by constructor <;> simp

theorem State.flushDataLine_sameControl (s : State) (p : Word) : s.SameControl (s.flushDataLine p) := by
  constructor <;> simp

theorem State.invalidateDataLine_sameControl (s : State) (p : Word) : s.SameControl (s.invalidateDataLine p) := by
  constructor <;> simp

theorem State.invalidateInstructionLine_sameControl (s : State) (p : Word) :
    s.SameControl (s.invalidateInstructionLine p) := by constructor <;> simp

theorem State.readCtl_sameControl {s : State} {n : CtlNum} {r : Word × State} (h : s.readCtl n = .next r) :
    s.SameControl r.2 := by
  rcases (State.readCtl_eq_next h).2 with h | h <;> rw [h]
  · exact .rfl' s
  · exact ⟨rfl, rfl, rfl, rfl, rfl, rfl⟩

/-! ### Sound meanings -/

theorem State.Sound.loadInto {s t : State} {io : Bool} {width : AccessWidth} {extend : Word → Word} {rB : Reg}
    {imm16 : Half} {rA : Reg} (hs : s.Sound) (h : s.loadInto io width extend rB imm16 rA = .next t) : t.Sound := by
  obtain ⟨r, hr, h⟩ := andThen_eq_next h
  exact (hs.load hr).finish h

theorem State.Sound.storeFrom {s t : State} {io : Bool} {width : AccessWidth} {rB : Reg} {imm16 : Half} {rA : Reg}
    (hs : s.Sound) (h : s.storeFrom io width rB imm16 rA = .next t) : t.Sound := by
  obtain ⟨r, hr, h⟩ := andThen_eq_next h
  have : t = r.advance := by simpa using h.symm
  exact this ▸ (hs.store hr).advance

theorem State.Sound.branchIf {s t : State} {rel : Relation} {rA rB : Reg} {imm16 : Half} (hs : s.Sound)
    (h : s.branchIf rel rA rB imm16 = .next t) : t.Sound := by
  unfold State.branchIf at h
  split at h
  · exact hs.jump h
  · have : t = s.advance := by simpa using h.symm
    exact this ▸ hs.advance

theorem State.Sound.divide {s t : State} {rC : Reg} {q : Option Word} (hs : s.Sound) (h : s.divide rC q = .next t) :
    t.Sound := by
  unfold State.divide at h
  split at h
  · exact hs.finish h
  · exact hs.drawn.finish h

/-! ### Operands as numbers -/

/-- A sign-extended immediate has the value of its field (30_encoding.md R106). -/
theorem sextImm_toInt (imm : Half) : (sextImm imm).toInt = imm.toInt := BitVec.toInt_signExtend_of_le (by decide)

theorem sextImm_eq_ofInt (imm : Half) : sextImm imm = BitVec.ofInt 32 imm.toInt := by
  apply BitVec.eq_of_toInt_eq
  rw [sextImm_toInt, BitVec.toInt_ofInt]
  have := BitVec.le_toInt imm
  have := BitVec.toInt_lt (x := imm)
  simp only [Int.bmod] at *
  omega

/-- A zero-extended immediate has the value of its field (30_encoding.md R106). -/
theorem zextImm_toNat (imm : Half) : (zextImm imm).toNat = imm.toNat := by
  have := imm.isLt
  rw [zextImm, BitVec.toNat_setWidth]
  omega

/-- The target of a relative branch as a number (45_program_control.md R234). -/
theorem State.branchTarget_eq (s : State) (imm : Half) :
    s.branchTarget imm = BitVec.ofInt 32 ((s.pc.toNat : Int) + 4 + imm.toInt) := by
  rw [State.branchTarget, sextImm_eq_ofInt, BitVec.ofInt_add, BitVec.ofInt_add, BitVec.ofInt_natCast,
    BitVec.ofNat_toNat, BitVec.setWidth_eq]
  rfl

/-- The target of a call as a number (45_program_control.md R230). -/
theorem State.callTarget_eq (s : State) (imm26 : BitVec 26) :
    s.callTarget imm26 = BitVec.ofNat 32 (s.pc.toNat / 2 ^ 28 * 2 ^ 28 + imm26.toNat * 4) := by
  apply BitVec.eq_of_toNat_eq
  have h : (s.callTarget imm26).toNat = _ := toNat_append_add (s.pc.extractLsb' 28 4 ++ imm26) (0#2)
  have := s.pc.isLt
  have := imm26.isLt
  rw [h, toNat_append_add, toNat_field, BitVec.toNat_ofNat, BitVec.toNat_ofNat]
  omega

/-- A call's target is a multiple of 4 (45_program_control.md R230). -/
theorem State.callTarget_aligned (s : State) (imm26 : BitVec 26) : (s.callTarget imm26).toNat % 4 = 0 := by
  rw [State.callTarget_eq, BitVec.toNat_ofNat]
  omega

/-- The upper half of a product is the product divided by 2^32, rounded down (41_arith_logic.md R169). -/
theorem upperHalf_eq (p : Int) : upperHalf p = BitVec.ofInt 32 (p / 2 ^ 32) := by
  unfold upperHalf
  apply BitVec.eq_of_toNat_eq
  simp only [BitVec.extractLsb'_toNat, BitVec.toNat_ofInt, Nat.shiftRight_eq_div_pow]
  omega

/-- The count of a shift by a register is its value modulo 32 (44_shift_rotate.md R215). -/
theorem regCount_eq (v : Word) : regCount v = v.toNat % 32 := by
  rw [regCount, toNat_field]
  omega

/-- A status register as read: the two stored bits below the free ones (10_state.md R37). -/
theorem wordOfStatus_toNat (b : StatusBits) (free : Word) :
    (wordOfStatus b free).toNat = free.toNat / 4 * 4 + b.u.toNat * 2 + b.pie.toNat := by
  have h : (wordOfStatus b free).toNat = _ :=
    toNat_append_add (free.extractLsb' 2 30 ++ BitVec.ofBool b.u) (BitVec.ofBool b.pie)
  have := free.isLt
  rw [h, toNat_append_add, toNat_field, BitVec.toNat_ofBool, BitVec.toNat_ofBool]
  omega

/-- Lines of `2^k` words: the same line is the same address divided by `2^(k+2)`. -/
theorem sameLine_eq (k : Nat) (a b : Word) :
    sameLine k a b = decide (a.toNat / 2 ^ (k + 2) = b.toNat / 2 ^ (k + 2)) := by
  simp [sameLine, ← BitVec.toNat_inj, Nat.shiftRight_eq_div_pow, BEq.beq]

/-! ### Words of instructions -/

/-- An R-type word with its fields in their places. -/
theorem hasWord_rWord {i : Instr} {a b c : Reg} {opx : BitVec 6} {imm5 : BitVec 5} (h : encode i = [rWord a b c opx imm5]) :
    HasWord i (rType a b c opx.toNat imm5.toNat) := by
  simp only [HasWord, h, List.map_cons, List.map_nil, rWord_toNat, rType, List.cons.injEq, and_true]
  omega

/-- An I-type word with its fields in their places. -/
theorem hasWord_iWord {i : Instr} {a b : Reg} {imm16 : Half} {op : BitVec 6} (h : encode i = [iWord a b imm16 op]) :
    HasWord i (iType a b imm16 op.toNat) := by
  simp only [HasWord, h, List.map_cons, List.map_nil, iWord_toNat, iType, List.cons.injEq, and_true]
  omega

/-! ### Meanings in the words of the claims -/

/-- A result stated with an equal value. -/
theorem WritesOnly.of_eq {o : Result} {s : State} {r : Reg} {v w : Word} (h : WritesOnly o s r v) (e : v = w) :
    WritesOnly o s r w := e ▸ h

/-- A potentially unimplemented instruction: the exception, or the result. -/
theorem State.unlessAbsent_finish {s : State} (absent : Bool) (r : Reg) (v : Word) :
    if absent then TakesException (s.unlessAbsent absent (s.finish r v)) s (s.pc + 4#32)
    else WritesOnly (s.unlessAbsent absent (s.finish r v)) s r v := by
  cases absent
  · simpa using s.finish_writesOnly r v
  · simpa using s.exceptionEntry_takesException (s.pc + 4#32)

/-- A privileged instruction in user mode. -/
theorem State.privileged_takesException {s : State} (h : s.status.u = true) (body : Result) :
    TakesException (s.privileged body) s (s.pc + 4#32) := by
  rw [State.privileged_of_user h]
  exact s.exceptionEntry_takesException _

/-- A comparison writes 1 where the relation holds and 0 where it does not. -/
theorem State.compareInto_writesOnly {s : State} {r : Reg} {rel : Relation} {a b : Word} {c : Prop} [Decidable c]
    (h : relationHolds rel a b = decide c) : WritesOnly (s.compareInto r rel a b) s r (if c then 1#32 else 0#32) :=
  (s.finish_writesOnly r _).of_eq (by simp [truthWord, h])

/-- A jump in its two cases. -/
theorem State.jump_jumpsOrStops (s : State) (t : Word) : JumpsOrStops (s.jump t) s t :=
  ⟨State.jump_movesTo, State.jump_refused⟩

/-- A conditional branch in its three cases. -/
theorem State.branchIf_branchesIf {s : State} {rel : Relation} {rA rB : Reg} (imm16 : Half) {c : Prop} [Decidable c]
    (h : relationHolds rel (s.readReg rA) (s.readReg rB) = decide c) :
    BranchesIf (s.branchIf rel rA rB imm16) s c (s.branchTarget imm16) := by
  constructor <;> intro hc
  · simpa [State.branchIf, h, hc] using s.jump_jumpsOrStops (s.branchTarget imm16)
  · simpa [State.branchIf, h, hc] using s.advance_movesTo

/-- A load instruction in its four cases. -/
theorem State.loadInto_loadsOrStops (s : State) (io : Bool) (width : AccessWidth) (extend : Word → Word) (rB : Reg)
    (imm16 : Half) (rA : Reg) :
    LoadsOrStops (s.loadInto io width extend rB imm16 rA) s io (s.effectiveAddr rA imm16) width
      (s.loadValue (dataAddr s.cfg (s.effectiveAddr rA imm16)) width) rB
      (extend (s.loadValue (dataAddr s.cfg (s.effectiveAddr rA imm16)) width)) := by
  refine ⟨fun ha hm hx => State.load_finish_loads ha hm hx rB extend, fun ha => ?_, fun ha hm => ?_, fun ha hm hx => ?_⟩
  · rw [State.loadInto, State.load_misaligned ha]; rfl
  · rw [State.loadInto, State.load_unmapped ha hm]; rfl
  · rw [State.loadInto, State.load_mixed ha hm hx]; rfl

/-- A store instruction in its four cases. -/
theorem State.storeFrom_storesOrStops {s : State} (hwf : s.mem.wf) (io : Bool) (width : AccessWidth) (rB : Reg)
    (imm16 : Half) (rA : Reg) :
    StoresOrStops (s.storeFrom io width rB imm16 rA) s io (s.effectiveAddr rA imm16) width (s.readReg rB) := by
  refine ⟨fun ha hm hx => State.store_advance_stores hwf ha hm hx _, fun ha => ?_, fun ha hm => ?_, fun ha hm hx => ?_⟩
  · rw [State.storeFrom, State.store_misaligned ha]; rfl
  · rw [State.storeFrom, State.store_unmapped ha hm]; rfl
  · rw [State.storeFrom, State.store_mixed ha hm hx]; rfl

end Sys2Proof.Machine
end

