-- ==== Sys2Proof/Laws/PerInstr.lean ====
section
/-! SUPPORT. The family `Expands`, one lemma for each constructor: an instruction has as many words as its
expansion has instructions, and a machine instruction is its own expansion (30_encoding.md R100, R120). -/

/-- An instruction has as many words as its expansion has instructions, and a machine instruction is its own
expansion. -/
def Sys2Proof.Laws.Expands.Statement (i : Sys2Proof.Instr) : Prop :=
  (Sys2Proof.encode i).length = (Sys2Proof.expansion i).length ∧ (i.isMachine = true → Sys2Proof.expansion i = [i])

section PerInstr

open Sys2Proof

theorem Sys2Proof.Laws.Expands.ldbu (rB : Reg) (imm16 : Half) (rA : Reg) : Sys2Proof.Laws.Expands.Statement (.ldbu rB imm16 rA) := ⟨rfl, fun _ => rfl⟩
theorem Sys2Proof.Laws.Expands.addi (rB rA : Reg) (imm16 : Half) : Sys2Proof.Laws.Expands.Statement (.addi rB rA imm16) := ⟨rfl, fun _ => rfl⟩
theorem Sys2Proof.Laws.Expands.stb (rB : Reg) (imm16 : Half) (rA : Reg) : Sys2Proof.Laws.Expands.Statement (.stb rB imm16 rA) := ⟨rfl, fun _ => rfl⟩
theorem Sys2Proof.Laws.Expands.br (imm16 : Half) : Sys2Proof.Laws.Expands.Statement (.br imm16) := ⟨rfl, fun _ => rfl⟩
theorem Sys2Proof.Laws.Expands.ldb (rB : Reg) (imm16 : Half) (rA : Reg) : Sys2Proof.Laws.Expands.Statement (.ldb rB imm16 rA) := ⟨rfl, fun _ => rfl⟩
theorem Sys2Proof.Laws.Expands.cmpgei (rB rA : Reg) (imm16 : Half) : Sys2Proof.Laws.Expands.Statement (.cmpgei rB rA imm16) := ⟨rfl, fun _ => rfl⟩
theorem Sys2Proof.Laws.Expands.ldhu (rB : Reg) (imm16 : Half) (rA : Reg) : Sys2Proof.Laws.Expands.Statement (.ldhu rB imm16 rA) := ⟨rfl, fun _ => rfl⟩
theorem Sys2Proof.Laws.Expands.andi (rB rA : Reg) (imm16 : Half) : Sys2Proof.Laws.Expands.Statement (.andi rB rA imm16) := ⟨rfl, fun _ => rfl⟩
theorem Sys2Proof.Laws.Expands.sth (rB : Reg) (imm16 : Half) (rA : Reg) : Sys2Proof.Laws.Expands.Statement (.sth rB imm16 rA) := ⟨rfl, fun _ => rfl⟩
theorem Sys2Proof.Laws.Expands.bge (rA rB : Reg) (imm16 : Half) : Sys2Proof.Laws.Expands.Statement (.bge rA rB imm16) := ⟨rfl, fun _ => rfl⟩
theorem Sys2Proof.Laws.Expands.ldh (rB : Reg) (imm16 : Half) (rA : Reg) : Sys2Proof.Laws.Expands.Statement (.ldh rB imm16 rA) := ⟨rfl, fun _ => rfl⟩
theorem Sys2Proof.Laws.Expands.cmplti (rB rA : Reg) (imm16 : Half) : Sys2Proof.Laws.Expands.Statement (.cmplti rB rA imm16) := ⟨rfl, fun _ => rfl⟩
theorem Sys2Proof.Laws.Expands.ori (rB rA : Reg) (imm16 : Half) : Sys2Proof.Laws.Expands.Statement (.ori rB rA imm16) := ⟨rfl, fun _ => rfl⟩
theorem Sys2Proof.Laws.Expands.stw (rB : Reg) (imm16 : Half) (rA : Reg) : Sys2Proof.Laws.Expands.Statement (.stw rB imm16 rA) := ⟨rfl, fun _ => rfl⟩
theorem Sys2Proof.Laws.Expands.blt (rA rB : Reg) (imm16 : Half) : Sys2Proof.Laws.Expands.Statement (.blt rA rB imm16) := ⟨rfl, fun _ => rfl⟩
theorem Sys2Proof.Laws.Expands.ldw (rB : Reg) (imm16 : Half) (rA : Reg) : Sys2Proof.Laws.Expands.Statement (.ldw rB imm16 rA) := ⟨rfl, fun _ => rfl⟩
theorem Sys2Proof.Laws.Expands.cmpnei (rB rA : Reg) (imm16 : Half) : Sys2Proof.Laws.Expands.Statement (.cmpnei rB rA imm16) := ⟨rfl, fun _ => rfl⟩
theorem Sys2Proof.Laws.Expands.xori (rB rA : Reg) (imm16 : Half) : Sys2Proof.Laws.Expands.Statement (.xori rB rA imm16) := ⟨rfl, fun _ => rfl⟩
theorem Sys2Proof.Laws.Expands.bne (rA rB : Reg) (imm16 : Half) : Sys2Proof.Laws.Expands.Statement (.bne rA rB imm16) := ⟨rfl, fun _ => rfl⟩
theorem Sys2Proof.Laws.Expands.cmpeqi (rB rA : Reg) (imm16 : Half) : Sys2Proof.Laws.Expands.Statement (.cmpeqi rB rA imm16) := ⟨rfl, fun _ => rfl⟩
theorem Sys2Proof.Laws.Expands.ldbuio (rB : Reg) (imm16 : Half) (rA : Reg) : Sys2Proof.Laws.Expands.Statement (.ldbuio rB imm16 rA) := ⟨rfl, fun _ => rfl⟩
theorem Sys2Proof.Laws.Expands.muli (rB rA : Reg) (imm16 : Half) : Sys2Proof.Laws.Expands.Statement (.muli rB rA imm16) := ⟨rfl, fun _ => rfl⟩
theorem Sys2Proof.Laws.Expands.stbio (rB : Reg) (imm16 : Half) (rA : Reg) : Sys2Proof.Laws.Expands.Statement (.stbio rB imm16 rA) := ⟨rfl, fun _ => rfl⟩
theorem Sys2Proof.Laws.Expands.beq (rA rB : Reg) (imm16 : Half) : Sys2Proof.Laws.Expands.Statement (.beq rA rB imm16) := ⟨rfl, fun _ => rfl⟩
theorem Sys2Proof.Laws.Expands.ldbio (rB : Reg) (imm16 : Half) (rA : Reg) : Sys2Proof.Laws.Expands.Statement (.ldbio rB imm16 rA) := ⟨rfl, fun _ => rfl⟩
theorem Sys2Proof.Laws.Expands.cmpgeui (rB rA : Reg) (imm16 : Half) : Sys2Proof.Laws.Expands.Statement (.cmpgeui rB rA imm16) := ⟨rfl, fun _ => rfl⟩
theorem Sys2Proof.Laws.Expands.ldhuio (rB : Reg) (imm16 : Half) (rA : Reg) : Sys2Proof.Laws.Expands.Statement (.ldhuio rB imm16 rA) := ⟨rfl, fun _ => rfl⟩
theorem Sys2Proof.Laws.Expands.andhi (rB rA : Reg) (imm16 : Half) : Sys2Proof.Laws.Expands.Statement (.andhi rB rA imm16) := ⟨rfl, fun _ => rfl⟩
theorem Sys2Proof.Laws.Expands.sthio (rB : Reg) (imm16 : Half) (rA : Reg) : Sys2Proof.Laws.Expands.Statement (.sthio rB imm16 rA) := ⟨rfl, fun _ => rfl⟩
theorem Sys2Proof.Laws.Expands.bgeu (rA rB : Reg) (imm16 : Half) : Sys2Proof.Laws.Expands.Statement (.bgeu rA rB imm16) := ⟨rfl, fun _ => rfl⟩
theorem Sys2Proof.Laws.Expands.ldhio (rB : Reg) (imm16 : Half) (rA : Reg) : Sys2Proof.Laws.Expands.Statement (.ldhio rB imm16 rA) := ⟨rfl, fun _ => rfl⟩
theorem Sys2Proof.Laws.Expands.cmpltui (rB rA : Reg) (imm16 : Half) : Sys2Proof.Laws.Expands.Statement (.cmpltui rB rA imm16) := ⟨rfl, fun _ => rfl⟩
theorem Sys2Proof.Laws.Expands.initd (imm16 : Half) (rA : Reg) : Sys2Proof.Laws.Expands.Statement (.initd imm16 rA) := ⟨rfl, fun _ => rfl⟩
theorem Sys2Proof.Laws.Expands.orhi (rB rA : Reg) (imm16 : Half) : Sys2Proof.Laws.Expands.Statement (.orhi rB rA imm16) := ⟨rfl, fun _ => rfl⟩
theorem Sys2Proof.Laws.Expands.stwio (rB : Reg) (imm16 : Half) (rA : Reg) : Sys2Proof.Laws.Expands.Statement (.stwio rB imm16 rA) := ⟨rfl, fun _ => rfl⟩
theorem Sys2Proof.Laws.Expands.bltu (rA rB : Reg) (imm16 : Half) : Sys2Proof.Laws.Expands.Statement (.bltu rA rB imm16) := ⟨rfl, fun _ => rfl⟩
theorem Sys2Proof.Laws.Expands.ldwio (rB : Reg) (imm16 : Half) (rA : Reg) : Sys2Proof.Laws.Expands.Statement (.ldwio rB imm16 rA) := ⟨rfl, fun _ => rfl⟩
theorem Sys2Proof.Laws.Expands.flushd (imm16 : Half) (rA : Reg) : Sys2Proof.Laws.Expands.Statement (.flushd imm16 rA) := ⟨rfl, fun _ => rfl⟩
theorem Sys2Proof.Laws.Expands.xorhi (rB rA : Reg) (imm16 : Half) : Sys2Proof.Laws.Expands.Statement (.xorhi rB rA imm16) := ⟨rfl, fun _ => rfl⟩
theorem Sys2Proof.Laws.Expands.call (imm26 : BitVec 26) : Sys2Proof.Laws.Expands.Statement (.call imm26) := ⟨rfl, fun _ => rfl⟩
theorem Sys2Proof.Laws.Expands.custom (n : Byte) (xC xA xB : XReg) : Sys2Proof.Laws.Expands.Statement (.custom n xC xA xB) := ⟨rfl, fun _ => rfl⟩
theorem Sys2Proof.Laws.Expands.eret : Sys2Proof.Laws.Expands.Statement .eret := ⟨rfl, fun _ => rfl⟩
theorem Sys2Proof.Laws.Expands.roli (rC rA : Reg) (imm5 : BitVec 5) : Sys2Proof.Laws.Expands.Statement (.roli rC rA imm5) := ⟨rfl, fun _ => rfl⟩
theorem Sys2Proof.Laws.Expands.rol (rC rA rB : Reg) : Sys2Proof.Laws.Expands.Statement (.rol rC rA rB) := ⟨rfl, fun _ => rfl⟩
theorem Sys2Proof.Laws.Expands.flushp : Sys2Proof.Laws.Expands.Statement .flushp := ⟨rfl, fun _ => rfl⟩
theorem Sys2Proof.Laws.Expands.ret : Sys2Proof.Laws.Expands.Statement .ret := ⟨rfl, fun _ => rfl⟩
theorem Sys2Proof.Laws.Expands.nor (rC rA rB : Reg) : Sys2Proof.Laws.Expands.Statement (.nor rC rA rB) := ⟨rfl, fun _ => rfl⟩
theorem Sys2Proof.Laws.Expands.mulxuu (rC rA rB : Reg) : Sys2Proof.Laws.Expands.Statement (.mulxuu rC rA rB) := ⟨rfl, fun _ => rfl⟩
theorem Sys2Proof.Laws.Expands.cmpge (rC rA rB : Reg) : Sys2Proof.Laws.Expands.Statement (.cmpge rC rA rB) := ⟨rfl, fun _ => rfl⟩
theorem Sys2Proof.Laws.Expands.bret (fieldC : BitVec 5) : Sys2Proof.Laws.Expands.Statement (.bret fieldC) := ⟨rfl, fun _ => rfl⟩
theorem Sys2Proof.Laws.Expands.ror (rC rA rB : Reg) : Sys2Proof.Laws.Expands.Statement (.ror rC rA rB) := ⟨rfl, fun _ => rfl⟩
theorem Sys2Proof.Laws.Expands.flushi (rA : Reg) : Sys2Proof.Laws.Expands.Statement (.flushi rA) := ⟨rfl, fun _ => rfl⟩
theorem Sys2Proof.Laws.Expands.jmp (rA : Reg) : Sys2Proof.Laws.Expands.Statement (.jmp rA) := ⟨rfl, fun _ => rfl⟩
theorem Sys2Proof.Laws.Expands.and (rC rA rB : Reg) : Sys2Proof.Laws.Expands.Statement (.and rC rA rB) := ⟨rfl, fun _ => rfl⟩
theorem Sys2Proof.Laws.Expands.cmplt (rC rA rB : Reg) : Sys2Proof.Laws.Expands.Statement (.cmplt rC rA rB) := ⟨rfl, fun _ => rfl⟩
theorem Sys2Proof.Laws.Expands.slli (rC rA : Reg) (imm5 : BitVec 5) : Sys2Proof.Laws.Expands.Statement (.slli rC rA imm5) := ⟨rfl, fun _ => rfl⟩
theorem Sys2Proof.Laws.Expands.sll (rC rA rB : Reg) : Sys2Proof.Laws.Expands.Statement (.sll rC rA rB) := ⟨rfl, fun _ => rfl⟩
theorem Sys2Proof.Laws.Expands.or (rC rA rB : Reg) : Sys2Proof.Laws.Expands.Statement (.or rC rA rB) := ⟨rfl, fun _ => rfl⟩
theorem Sys2Proof.Laws.Expands.mulxsu (rC rA rB : Reg) : Sys2Proof.Laws.Expands.Statement (.mulxsu rC rA rB) := ⟨rfl, fun _ => rfl⟩
theorem Sys2Proof.Laws.Expands.cmpne (rC rA rB : Reg) : Sys2Proof.Laws.Expands.Statement (.cmpne rC rA rB) := ⟨rfl, fun _ => rfl⟩
theorem Sys2Proof.Laws.Expands.srli (rC rA : Reg) (imm5 : BitVec 5) : Sys2Proof.Laws.Expands.Statement (.srli rC rA imm5) := ⟨rfl, fun _ => rfl⟩
theorem Sys2Proof.Laws.Expands.srl (rC rA rB : Reg) : Sys2Proof.Laws.Expands.Statement (.srl rC rA rB) := ⟨rfl, fun _ => rfl⟩
theorem Sys2Proof.Laws.Expands.callr (rA : Reg) : Sys2Proof.Laws.Expands.Statement (.callr rA) := ⟨rfl, fun _ => rfl⟩
theorem Sys2Proof.Laws.Expands.xor (rC rA rB : Reg) : Sys2Proof.Laws.Expands.Statement (.xor rC rA rB) := ⟨rfl, fun _ => rfl⟩
theorem Sys2Proof.Laws.Expands.mulxss (rC rA rB : Reg) : Sys2Proof.Laws.Expands.Statement (.mulxss rC rA rB) := ⟨rfl, fun _ => rfl⟩
theorem Sys2Proof.Laws.Expands.cmpeq (rC rA rB : Reg) : Sys2Proof.Laws.Expands.Statement (.cmpeq rC rA rB) := ⟨rfl, fun _ => rfl⟩
theorem Sys2Proof.Laws.Expands.divu (rC rA rB : Reg) : Sys2Proof.Laws.Expands.Statement (.divu rC rA rB) := ⟨rfl, fun _ => rfl⟩
theorem Sys2Proof.Laws.Expands.div (rC rA rB : Reg) : Sys2Proof.Laws.Expands.Statement (.div rC rA rB) := ⟨rfl, fun _ => rfl⟩
theorem Sys2Proof.Laws.Expands.rdctl (rC : Reg) (n : CtlNum) : Sys2Proof.Laws.Expands.Statement (.rdctl rC n) := ⟨rfl, fun _ => rfl⟩
theorem Sys2Proof.Laws.Expands.mul (rC rA rB : Reg) : Sys2Proof.Laws.Expands.Statement (.mul rC rA rB) := ⟨rfl, fun _ => rfl⟩
theorem Sys2Proof.Laws.Expands.cmpgeu (rC rA rB : Reg) : Sys2Proof.Laws.Expands.Statement (.cmpgeu rC rA rB) := ⟨rfl, fun _ => rfl⟩
theorem Sys2Proof.Laws.Expands.initi (rA : Reg) : Sys2Proof.Laws.Expands.Statement (.initi rA) := ⟨rfl, fun _ => rfl⟩
theorem Sys2Proof.Laws.Expands.trap : Sys2Proof.Laws.Expands.Statement .trap := ⟨rfl, fun _ => rfl⟩
theorem Sys2Proof.Laws.Expands.wrctl (n : CtlNum) (rA : Reg) : Sys2Proof.Laws.Expands.Statement (.wrctl n rA) := ⟨rfl, fun _ => rfl⟩
theorem Sys2Proof.Laws.Expands.cmpltu (rC rA rB : Reg) : Sys2Proof.Laws.Expands.Statement (.cmpltu rC rA rB) := ⟨rfl, fun _ => rfl⟩
theorem Sys2Proof.Laws.Expands.add (rC rA rB : Reg) : Sys2Proof.Laws.Expands.Statement (.add rC rA rB) := ⟨rfl, fun _ => rfl⟩
theorem Sys2Proof.Laws.Expands.brk (imm5 : BitVec 5) : Sys2Proof.Laws.Expands.Statement (.brk imm5) := ⟨rfl, fun _ => rfl⟩
theorem Sys2Proof.Laws.Expands.sync : Sys2Proof.Laws.Expands.Statement .sync := ⟨rfl, fun _ => rfl⟩
theorem Sys2Proof.Laws.Expands.sub (rC rA rB : Reg) : Sys2Proof.Laws.Expands.Statement (.sub rC rA rB) := ⟨rfl, fun _ => rfl⟩
theorem Sys2Proof.Laws.Expands.srai (rC rA : Reg) (imm5 : BitVec 5) : Sys2Proof.Laws.Expands.Statement (.srai rC rA imm5) := ⟨rfl, fun _ => rfl⟩
theorem Sys2Proof.Laws.Expands.sra (rC rA rB : Reg) : Sys2Proof.Laws.Expands.Statement (.sra rC rA rB) := ⟨rfl, fun _ => rfl⟩
theorem Sys2Proof.Laws.Expands.mov (rC rA : Reg) : Sys2Proof.Laws.Expands.Statement (.mov rC rA) := ⟨rfl, fun h => nomatch h⟩
theorem Sys2Proof.Laws.Expands.movhi (rB : Reg) (imm16 : Half) : Sys2Proof.Laws.Expands.Statement (.movhi rB imm16) := ⟨rfl, fun h => nomatch h⟩
theorem Sys2Proof.Laws.Expands.movi (rB : Reg) (imm16 : Half) : Sys2Proof.Laws.Expands.Statement (.movi rB imm16) := ⟨rfl, fun h => nomatch h⟩
theorem Sys2Proof.Laws.Expands.movui (rB : Reg) (imm16 : Half) : Sys2Proof.Laws.Expands.Statement (.movui rB imm16) := ⟨rfl, fun h => nomatch h⟩
theorem Sys2Proof.Laws.Expands.movia (rB : Reg) (label : Word) : Sys2Proof.Laws.Expands.Statement (.movia rB label) := ⟨rfl, fun h => nomatch h⟩
theorem Sys2Proof.Laws.Expands.nop : Sys2Proof.Laws.Expands.Statement .nop := ⟨rfl, fun h => nomatch h⟩
theorem Sys2Proof.Laws.Expands.subi (rB rA : Reg) (imm : Int) : Sys2Proof.Laws.Expands.Statement (.subi rB rA imm) := ⟨rfl, fun h => nomatch h⟩
theorem Sys2Proof.Laws.Expands.cmpgt (rC rA rB : Reg) : Sys2Proof.Laws.Expands.Statement (.cmpgt rC rA rB) := ⟨rfl, fun h => nomatch h⟩
theorem Sys2Proof.Laws.Expands.cmpgtu (rC rA rB : Reg) : Sys2Proof.Laws.Expands.Statement (.cmpgtu rC rA rB) := ⟨rfl, fun h => nomatch h⟩
theorem Sys2Proof.Laws.Expands.cmple (rC rA rB : Reg) : Sys2Proof.Laws.Expands.Statement (.cmple rC rA rB) := ⟨rfl, fun h => nomatch h⟩
theorem Sys2Proof.Laws.Expands.cmpleu (rC rA rB : Reg) : Sys2Proof.Laws.Expands.Statement (.cmpleu rC rA rB) := ⟨rfl, fun h => nomatch h⟩
theorem Sys2Proof.Laws.Expands.cmpgti (rB rA : Reg) (imm16 : Half) : Sys2Proof.Laws.Expands.Statement (.cmpgti rB rA imm16) := ⟨rfl, fun h => nomatch h⟩
theorem Sys2Proof.Laws.Expands.cmpgtui (rB rA : Reg) (imm16 : Half) : Sys2Proof.Laws.Expands.Statement (.cmpgtui rB rA imm16) := ⟨rfl, fun h => nomatch h⟩
theorem Sys2Proof.Laws.Expands.cmplei (rB rA : Reg) (imm16 : Half) : Sys2Proof.Laws.Expands.Statement (.cmplei rB rA imm16) := ⟨rfl, fun h => nomatch h⟩
theorem Sys2Proof.Laws.Expands.cmpleui (rB rA : Reg) (imm16 : Half) : Sys2Proof.Laws.Expands.Statement (.cmpleui rB rA imm16) := ⟨rfl, fun h => nomatch h⟩
theorem Sys2Proof.Laws.Expands.bgt (rA rB : Reg) (imm16 : Half) : Sys2Proof.Laws.Expands.Statement (.bgt rA rB imm16) := ⟨rfl, fun h => nomatch h⟩
theorem Sys2Proof.Laws.Expands.bgtu (rA rB : Reg) (imm16 : Half) : Sys2Proof.Laws.Expands.Statement (.bgtu rA rB imm16) := ⟨rfl, fun h => nomatch h⟩
theorem Sys2Proof.Laws.Expands.ble (rA rB : Reg) (imm16 : Half) : Sys2Proof.Laws.Expands.Statement (.ble rA rB imm16) := ⟨rfl, fun h => nomatch h⟩
theorem Sys2Proof.Laws.Expands.bleu (rA rB : Reg) (imm16 : Half) : Sys2Proof.Laws.Expands.Statement (.bleu rA rB imm16) := ⟨rfl, fun h => nomatch h⟩

end PerInstr
end

