-- ==== Sys2Proof/Tests/Slice0.lean ====
section
/-! SUPPORT. Tests: each well-formedness check refuses an ill-formed term, every constructor's word decodes,
one step of each machine instruction, and for every statement with hypotheses a state and operands that meet
them. Expected values are the spec's, or calculated by hand from the rule named. -/

namespace Sys2Proof.Tests

open Sys2Proof.Machine

/-! ### Well-formedness -/

theorem test_subi_range : Instr.wellFormed (.subi 1 2 (-32768)) = false ∧ Instr.wellFormed (.subi 1 2 32769) = false ∧
    Instr.wellFormed (.subi 1 2 (-32767)) = true ∧ Instr.wellFormed (.subi 1 2 32768) = true := by decide

theorem test_compare_successor_range : Instr.wellFormed (.cmpgti 1 2 0x7FFF) = false ∧
    Instr.wellFormed (.cmplei 1 2 0x7FFF) = false ∧ Instr.wellFormed (.cmpgtui 1 2 0xFFFF) = false ∧
    Instr.wellFormed (.cmpleui 1 2 0xFFFF) = false ∧ Instr.wellFormed (.cmpgti 1 2 0x7FFE) = true ∧
    Instr.wellFormed (.cmpgtui 1 2 0xFFFE) = true := by decide

theorem test_config_reference : Config.reference.wellFormed = true := by decide

theorem test_config_address_width : Config.wellFormed { Config.reference with addrWidth := 33 } = false := by decide

theorem test_config_bypass_width : Config.wellFormed { Config.reference with bit31Bypass := true } = false := by decide

theorem test_config_region_end : Config.wellFormed { Config.reference with memMap := [⟨1#32, 2 ^ 32, .memory⟩] } = false := by
  decide

theorem test_config_disjoint :
    Config.wellFormed { Config.reference with memMap := [⟨0#32, 8, .memory⟩, ⟨4#32, 8, .peripheral⟩] } = false := by decide

/-! ### Words that are no instruction (30_encoding.md R111, R112) -/

theorem test_decode_refuses :
    decodeWord 0x00000001#32 = .error (.unassignedOp 0x01#6) ∧ decodeWord 0x0000003A#32 = .error (.unassignedOpx 0x00#6) ∧
    decodeWord 0x0887887A#32 = .error (.fixedField 0x0887887A#32) ∧ decode [0x3A#8, 0x68#8, 0x3B#8] = .error .truncated := by
  decide

/-! ### Decoding: the words are the spec's own (30_encoding.md R110; the `Example` of each rule, 95_test_vectors.md) -/

theorem test_decode_data_transfer :
    decodeWord 0x21400217#32 = .ok (.ldw 5 0x8 4) ∧
    decodeWord 0xD97FFF15#32 = .ok (.stw 5 0xFFFC 27) ∧
    decodeWord 0x18800037#32 = .ok (.ldwio 2 0x0 3) ∧
    decodeWord 0x18800135#32 = .ok (.stwio 2 0x4 3) ∧
    decodeWord 0x20800047#32 = .ok (.ldb 2 0x1 4) ∧
    decodeWord 0x20800043#32 = .ok (.ldbu 2 0x1 4) ∧
    decodeWord 0x218000C5#32 = .ok (.stb 6 0x3 4) ∧
    decodeWord 0x2080008F#32 = .ok (.ldh 2 0x2 4) ∧
    decodeWord 0x2080008B#32 = .ok (.ldhu 2 0x2 4) ∧
    decodeWord 0x2180008D#32 = .ok (.sth 6 0x2 4) ∧
    decodeWord 0x18800027#32 = .ok (.ldbio 2 0x0 3) ∧
    decodeWord 0x18800023#32 = .ok (.ldbuio 2 0x0 3) ∧
    decodeWord 0x19800025#32 = .ok (.stbio 6 0x0 3) ∧
    decodeWord 0x188000AF#32 = .ok (.ldhio 2 0x2 3) ∧
    decodeWord 0x188000AB#32 = .ok (.ldhuio 2 0x2 3) ∧
    decodeWord 0x198000AD#32 = .ok (.sthio 6 0x2 3) := by decide

theorem test_decode_arith_logic :
    decodeWord 0x0886703A#32 = .ok (.and 3 1 2) ∧
    decodeWord 0x0886B03A#32 = .ok (.or 3 1 2) ∧
    decodeWord 0x0886F03A#32 = .ok (.xor 3 1 2) ∧
    decodeWord 0x0886303A#32 = .ok (.nor 3 1 2) ∧
    decodeWord 0x08FFC00C#32 = .ok (.andi 3 1 0xFF00) ∧
    decodeWord 0x08E00014#32 = .ok (.ori 3 1 0x8000) ∧
    decodeWord 0x08FFFFDC#32 = .ok (.xori 3 1 0xFFFF) ∧
    decodeWord 0x08FFFFEC#32 = .ok (.andhi 3 1 0xFFFF) ∧
    decodeWord 0x00C48D34#32 = .ok (.orhi 3 0 0x1234) ∧
    decodeWord 0x08E0003C#32 = .ok (.xorhi 3 1 0x8000) ∧
    decodeWord 0x0887883A#32 = .ok (.add 3 1 2) ∧
    decodeWord 0x0887C83A#32 = .ok (.sub 3 1 2) ∧
    decodeWord 0x0887383A#32 = .ok (.mul 3 1 2) ∧
    decodeWord 0x0887283A#32 = .ok (.div 3 1 2) ∧
    decodeWord 0x0887203A#32 = .ok (.divu 3 1 2) ∧
    decodeWord 0x08FFFFC4#32 = .ok (.addi 3 1 0xFFFF) ∧
    decodeWord 0x08FFFFA4#32 = .ok (.muli 3 1 0xFFFE) ∧
    decodeWord 0x0886F83A#32 = .ok (.mulxss 3 1 2) ∧
    decodeWord 0x0886383A#32 = .ok (.mulxuu 3 1 2) ∧
    decodeWord 0x0886B83A#32 = .ok (.mulxsu 3 1 2) := by decide

theorem test_decode_compare :
    decodeWord 0x0887003A#32 = .ok (.cmpeq 3 1 2) ∧
    decodeWord 0x0886C03A#32 = .ok (.cmpne 3 1 2) ∧
    decodeWord 0x0886403A#32 = .ok (.cmpge 3 1 2) ∧
    decodeWord 0x0887403A#32 = .ok (.cmpgeu 3 1 2) ∧
    decodeWord 0x0886803A#32 = .ok (.cmplt 3 1 2) ∧
    decodeWord 0x0887803A#32 = .ok (.cmpltu 3 1 2) ∧
    decodeWord 0x08FFFFE0#32 = .ok (.cmpeqi 3 1 0xFFFF) ∧
    decodeWord 0x08FFFFD8#32 = .ok (.cmpnei 3 1 0xFFFF) ∧
    decodeWord 0x08FFFFC8#32 = .ok (.cmpgei 3 1 0xFFFF) ∧
    decodeWord 0x08FFFFE8#32 = .ok (.cmpgeui 3 1 0xFFFF) ∧
    decodeWord 0x08FFFFD0#32 = .ok (.cmplti 3 1 0xFFFF) ∧
    decodeWord 0x08FFFFF0#32 = .ok (.cmpltui 3 1 0xFFFF) := by decide

theorem test_decode_shift_rotate :
    decodeWord 0x0886183A#32 = .ok (.rol 3 1 2) ∧
    decodeWord 0x0886583A#32 = .ok (.ror 3 1 2) ∧
    decodeWord 0x0806123A#32 = .ok (.roli 3 1 8) ∧
    decodeWord 0x0886983A#32 = .ok (.sll 3 1 2) ∧
    decodeWord 0x0806913A#32 = .ok (.slli 3 1 4) ∧
    decodeWord 0x0887D83A#32 = .ok (.sra 3 1 2) ∧
    decodeWord 0x0886D83A#32 = .ok (.srl 3 1 2) ∧
    decodeWord 0x0807D13A#32 = .ok (.srai 3 1 4) ∧
    decodeWord 0x0806D13A#32 = .ok (.srli 3 1 4) := by decide

theorem test_decode_program_control :
    decodeWord 0x00020000#32 = .ok (.call 0x800) ∧
    decodeWord 0x103EE83A#32 = .ok (.callr 2) ∧
    decodeWord 0xF800283A#32 = .ok (.ret) ∧
    decodeWord 0x1000683A#32 = .ok (.jmp 2) ∧
    decodeWord 0x00000306#32 = .ok (.br 0xC) ∧
    decodeWord 0x0880070E#32 = .ok (.bge 1 2 0x1C) ∧
    decodeWord 0x0880072E#32 = .ok (.bgeu 1 2 0x1C) ∧
    decodeWord 0x08800716#32 = .ok (.blt 1 2 0x1C) ∧
    decodeWord 0x08800736#32 = .ok (.bltu 1 2 0x1C) ∧
    decodeWord 0x08800726#32 = .ok (.beq 1 2 0x1C) ∧
    decodeWord 0x0880071E#32 = .ok (.bne 1 2 0x1C) := by decide

theorem test_decode_other_control :
    decodeWord 0x003B683A#32 = .ok (.trap) ∧
    decodeWord 0xEF80083A#32 = .ok (.eret) ∧
    decodeWord 0x003DA03A#32 = .ok (.brk 0) ∧
    decodeWord 0x003DA17A#32 = .ok (.brk 5) ∧
    decodeWord 0xF000483A#32 = .ok (.bret 0) ∧
    decodeWord 0x0005303A#32 = .ok (.rdctl 2 0) ∧
    decodeWord 0x0005313A#32 = .ok (.rdctl 2 4) ∧
    decodeWord 0x1001703A#32 = .ok (.wrctl 0 2) ∧
    decodeWord 0x100170FA#32 = .ok (.wrctl 3 2) ∧
    decodeWord 0x2000003B#32 = .ok (.flushd 0x0 4) ∧
    decodeWord 0x203FFF3B#32 = .ok (.flushd 0xFFFC 4) ∧
    decodeWord 0x2000603A#32 = .ok (.flushi 4) ∧
    decodeWord 0x20000033#32 = .ok (.initd 0x0 4) ∧
    decodeWord 0x20000833#32 = .ok (.initd 0x20 4) ∧
    decodeWord 0x2001483A#32 = .ok (.initi 4) ∧
    decodeWord 0x0000203A#32 = .ok (.flushp) ∧
    decodeWord 0x0001B03A#32 = .ok (.sync) := by decide

theorem test_decode_custom :
    decodeWord 0x0887C172#32 = .ok (.custom 5 (.r 3) (.r 1) (.r 2)) ∧
    decodeWord 0x08863FF2#32 = .ok (.custom 255 (.c 3) (.c 1) (.c 2)) := by decide

/-- The words the assembler emits for the pseudo-instructions (30_encoding.md R120, 42_move.md, 43_compare.md). -/
theorem test_encode_pseudo :
    encode (.mov 3 1) = [0x0807883A#32] ∧
    encode (.movhi 3 0x1234) = [0x00C48D34#32] ∧
    encode (.movi 3 0xFFFF) = [0x00FFFFC4#32] ∧
    encode (.movui 3 0xFFFF) = [0x00FFFFD4#32] ∧
    encode (.movia 4 0x12348000#32) = [0x01048D74#32, 0x21200004#32] ∧
    encode (.nop) = [0x0001883A#32] ∧
    encode (.subi 3 1 1) = [0x08FFFFC4#32] ∧
    encode (.cmpgt 3 1 2) = [0x1046803A#32] ∧
    encode (.cmpgtu 3 1 2) = [0x1047803A#32] ∧
    encode (.cmple 3 1 2) = [0x1046403A#32] ∧
    encode (.cmpleu 3 1 2) = [0x1047403A#32] ∧
    encode (.cmpgti 3 1 0x5) = [0x08C00188#32] ∧
    encode (.cmpgtui 3 1 0x5) = [0x08C001A8#32] ∧
    encode (.cmplei 3 1 0x5) = [0x08C00190#32] ∧
    encode (.cmpleui 3 1 0x5) = [0x08C001B0#32] ∧
    encode (.bgt 1 2 0x1C) = [0x10400716#32] ∧
    encode (.bgtu 1 2 0x1C) = [0x10400736#32] ∧
    encode (.ble 1 2 0x1C) = [0x1040070E#32] ∧
    encode (.bleu 1 2 0x1C) = [0x1040072E#32] := by decide

/-! ### The table words and the first step -/

theorem test_decode_table_word : decodeTableWord 32 0x003B683A = some .trap ∧ decodeTableWord 32 0x00000001 = none := by
  decide

theorem test_fetch_word_runs : ∀ t, step (State.reset.withFetchWord 32 0x003B683A) = .next t →
    t.pc = 0x20#32 ∧ t.readReg 29 = 0x4#32 := by
  intro t ht
  cases ht
  decide

/-! ### A small state -/

/-- The start of 95_test_vectors.md part 3: `pc` at 0x1000, every register at a sentinel. -/
def start : State := { State.reset with pc := 0x1000#32, gpr := Vector.replicate 31 0xA5A5A5A5#32 }

/-- That state with some registers set. -/
def withRegs (l : List (Reg × Word)) : State := l.foldl (fun s p => s.writeReg p.1 p.2) start

/-- A memory whose word at 0x2000 is the given one. -/
def wordAt2000 (w : Word) : Memory := storeValue Config.reference [] 0x2000#32 w .word

/-- Whether the word decodes and its execution answers a state with the property. -/
def after (w : Word) (s : State) (p : State → Bool) : Bool :=
  match decodeWord w with
  | .ok i => match exec i s with
    | .next t => p t
    | _ => false
  | .error _ => false

/-! ### One step each: the start and end values are those of 95_test_vectors.md -/

theorem test_step_ldw : after 0x21400017#32 { (withRegs [(4, 0x00002000#32)]) with mem := wordAt2000 0x80FF7F01#32 }
    (fun t => t.readReg 5 == 0x80FF7F01#32 && t.pc == 0x00001004#32) = true := by decide
theorem test_step_stw : after 0x21400015#32 { (withRegs [(4, 0x00002000#32), (5, 0xAABBCCDD#32)]) with mem := wordAt2000 0x80FF7F01#32 }
    (fun t => t.loadValue 0x2000#32 .word == 0xAABBCCDD#32 && t.pc == 0x00001004#32) = true := by decide
theorem test_step_ldwio : after 0x21400037#32 { (withRegs [(4, 0x00002000#32)]) with mem := wordAt2000 0x80FF7F01#32 }
    (fun t => t.readReg 5 == 0x80FF7F01#32 && t.pc == 0x00001004#32) = true := by decide
theorem test_step_stwio : after 0x21400035#32 { (withRegs [(4, 0x00002000#32), (5, 0x00000001#32)]) with mem := wordAt2000 0x80FF7F01#32 }
    (fun t => t.loadValue 0x2000#32 .word == 0x00000001#32 && t.pc == 0x00001004#32) = true := by decide
theorem test_step_ldb : after 0x214000C7#32 { (withRegs [(4, 0x00002000#32)]) with mem := wordAt2000 0x80FF7F01#32 }
    (fun t => t.readReg 5 == 0xFFFFFF80#32 && t.pc == 0x00001004#32) = true := by decide
theorem test_step_ldbu : after 0x214000C3#32 { (withRegs [(4, 0x00002000#32)]) with mem := wordAt2000 0x80FF7F01#32 }
    (fun t => t.readReg 5 == 0x00000080#32 && t.pc == 0x00001004#32) = true := by decide
theorem test_step_stb : after 0x21400045#32 { (withRegs [(4, 0x00002000#32), (5, 0xAABBCCDD#32)]) with mem := wordAt2000 0x80FF7F01#32 }
    (fun t => t.loadValue 0x2000#32 .word == 0x80FFDD01#32 && t.pc == 0x00001004#32) = true := by decide
theorem test_step_ldh : after 0x2140008F#32 { (withRegs [(4, 0x00002000#32)]) with mem := wordAt2000 0x80FF7F01#32 }
    (fun t => t.readReg 5 == 0xFFFF80FF#32 && t.pc == 0x00001004#32) = true := by decide
theorem test_step_ldhu : after 0x2140008B#32 { (withRegs [(4, 0x00002000#32)]) with mem := wordAt2000 0x80FF7F01#32 }
    (fun t => t.readReg 5 == 0x000080FF#32 && t.pc == 0x00001004#32) = true := by decide
theorem test_step_sth : after 0x2140008D#32 { (withRegs [(4, 0x00002000#32), (5, 0xAABBCCDD#32)]) with mem := wordAt2000 0x80FF7F01#32 }
    (fun t => t.loadValue 0x2000#32 .word == 0xCCDD7F01#32 && t.pc == 0x00001004#32) = true := by decide
theorem test_step_ldbio : after 0x214000E7#32 { (withRegs [(4, 0x00002000#32)]) with mem := wordAt2000 0x80FF7F01#32 }
    (fun t => t.readReg 5 == 0xFFFFFF80#32 && t.pc == 0x00001004#32) = true := by decide
theorem test_step_ldbuio : after 0x214000E3#32 { (withRegs [(4, 0x00002000#32)]) with mem := wordAt2000 0x80FF7F01#32 }
    (fun t => t.readReg 5 == 0x00000080#32 && t.pc == 0x00001004#32) = true := by decide
theorem test_step_stbio : after 0x21400025#32 { (withRegs [(4, 0x00002000#32), (5, 0x000001FF#32)]) with mem := wordAt2000 0x80FF7F01#32 }
    (fun t => t.loadValue 0x2000#32 .word == 0x80FF7FFF#32 && t.pc == 0x00001004#32) = true := by decide
theorem test_step_ldhio : after 0x214000AF#32 { (withRegs [(4, 0x00002000#32)]) with mem := wordAt2000 0x80FF7F01#32 }
    (fun t => t.readReg 5 == 0xFFFF80FF#32 && t.pc == 0x00001004#32) = true := by decide
theorem test_step_ldhuio : after 0x214000AB#32 { (withRegs [(4, 0x00002000#32)]) with mem := wordAt2000 0x80FF7F01#32 }
    (fun t => t.readReg 5 == 0x000080FF#32 && t.pc == 0x00001004#32) = true := by decide
theorem test_step_sthio : after 0x2140002D#32 { (withRegs [(4, 0x00002000#32), (5, 0x12345678#32)]) with mem := wordAt2000 0x80FF7F01#32 }
    (fun t => t.loadValue 0x2000#32 .word == 0x80FF5678#32 && t.pc == 0x00001004#32) = true := by decide
theorem test_step_and : after 0x0886703A#32 (withRegs [(1, 0xFF00FF00#32), (2, 0x0FF00FF0#32)])
    (fun t => t.readReg 3 == 0x0F000F00#32 && t.pc == 0x00001004#32) = true := by decide
theorem test_step_or : after 0x0886B03A#32 (withRegs [(1, 0xFF00FF00#32), (2, 0x0FF00FF0#32)])
    (fun t => t.readReg 3 == 0xFFF0FFF0#32 && t.pc == 0x00001004#32) = true := by decide
theorem test_step_xor : after 0x0886F03A#32 (withRegs [(1, 0xFF00FF00#32), (2, 0x0FF00FF0#32)])
    (fun t => t.readReg 3 == 0xF0F0F0F0#32 && t.pc == 0x00001004#32) = true := by decide
theorem test_step_nor : after 0x0886303A#32 (withRegs [(1, 0xFF00FF00#32), (2, 0x0FF00FF0#32)])
    (fun t => t.readReg 3 == 0x000F000F#32 && t.pc == 0x00001004#32) = true := by decide
theorem test_step_andi : after 0x08FFFFCC#32 (withRegs [(1, 0x12345678#32)])
    (fun t => t.readReg 3 == 0x00005678#32 && t.pc == 0x00001004#32) = true := by decide
theorem test_step_ori : after 0x08E00014#32 (withRegs [(1, 0x12340000#32)])
    (fun t => t.readReg 3 == 0x12348000#32 && t.pc == 0x00001004#32) = true := by decide
theorem test_step_xori : after 0x08FFFFDC#32 (withRegs [(1, 0x12345678#32)])
    (fun t => t.readReg 3 == 0x1234A987#32 && t.pc == 0x00001004#32) = true := by decide
theorem test_step_andhi : after 0x08FFFFEC#32 (withRegs [(1, 0x12345678#32)])
    (fun t => t.readReg 3 == 0x12340000#32 && t.pc == 0x00001004#32) = true := by decide
theorem test_step_orhi : after 0x00C48D34#32 start
    (fun t => t.readReg 3 == 0x12340000#32 && t.pc == 0x00001004#32) = true := by decide
theorem test_step_xorhi : after 0x08E0003C#32 (withRegs [(1, 0x12345678#32)])
    (fun t => t.readReg 3 == 0x92345678#32 && t.pc == 0x00001004#32) = true := by decide
theorem test_step_add : after 0x0887883A#32 (withRegs [(1, 0x7FFFFFFF#32), (2, 0x00000001#32)])
    (fun t => t.readReg 3 == 0x80000000#32 && t.pc == 0x00001004#32) = true := by decide
theorem test_step_sub : after 0x0887C83A#32 (withRegs [(1, 0x00000000#32), (2, 0x00000001#32)])
    (fun t => t.readReg 3 == 0xFFFFFFFF#32 && t.pc == 0x00001004#32) = true := by decide
theorem test_step_mul : after 0x0887383A#32 (withRegs [(1, 0x12345678#32), (2, 0x9ABCDEF0#32)])
    (fun t => t.readReg 3 == 0x242D2080#32 && t.pc == 0x00001004#32) = true := by decide
theorem test_step_div : after 0x0887283A#32 (withRegs [(1, 0xFFFFFFF9#32), (2, 0x00000002#32)])
    (fun t => t.readReg 3 == 0xFFFFFFFD#32 && t.pc == 0x00001004#32) = true := by decide
theorem test_step_divu : after 0x0887203A#32 (withRegs [(1, 0xFFFFFFF9#32), (2, 0x00000002#32)])
    (fun t => t.readReg 3 == 0x7FFFFFFC#32 && t.pc == 0x00001004#32) = true := by decide
theorem test_step_addi : after 0x08FFFFC4#32 (withRegs [(1, 0x00000000#32)])
    (fun t => t.readReg 3 == 0xFFFFFFFF#32 && t.pc == 0x00001004#32) = true := by decide
theorem test_step_muli : after 0x08FFFFA4#32 (withRegs [(1, 0x00000003#32)])
    (fun t => t.readReg 3 == 0xFFFFFFFA#32 && t.pc == 0x00001004#32) = true := by decide
theorem test_step_mulxss : after 0x0886F83A#32 (withRegs [(1, 0x80000000#32), (2, 0x80000000#32)])
    (fun t => t.readReg 3 == 0x40000000#32 && t.pc == 0x00001004#32) = true := by decide
theorem test_step_mulxuu : after 0x0886383A#32 (withRegs [(1, 0xFFFFFFFF#32), (2, 0xFFFFFFFF#32)])
    (fun t => t.readReg 3 == 0xFFFFFFFE#32 && t.pc == 0x00001004#32) = true := by decide
theorem test_step_mulxsu : after 0x0886B83A#32 (withRegs [(1, 0x00000002#32), (2, 0xFFFFFFFF#32)])
    (fun t => t.readReg 3 == 0x00000001#32 && t.pc == 0x00001004#32) = true := by decide
theorem test_step_cmpeq : after 0x0887003A#32 (withRegs [(1, 0xFFFFFFFF#32), (2, 0x00000001#32)])
    (fun t => t.readReg 3 == 0x00000000#32 && t.pc == 0x00001004#32) = true := by decide
theorem test_step_cmpne : after 0x0886C03A#32 (withRegs [(1, 0xFFFFFFFF#32), (2, 0x00000001#32)])
    (fun t => t.readReg 3 == 0x00000001#32 && t.pc == 0x00001004#32) = true := by decide
theorem test_step_cmpge : after 0x0886403A#32 (withRegs [(1, 0x00000005#32), (2, 0x00000005#32)])
    (fun t => t.readReg 3 == 0x00000001#32 && t.pc == 0x00001004#32) = true := by decide
theorem test_step_cmpgeu : after 0x0887403A#32 (withRegs [(1, 0xFFFFFFFF#32), (2, 0x00000001#32)])
    (fun t => t.readReg 3 == 0x00000001#32 && t.pc == 0x00001004#32) = true := by decide
theorem test_step_cmplt : after 0x0886803A#32 (withRegs [(1, 0xFFFFFFFF#32), (2, 0x00000001#32)])
    (fun t => t.readReg 3 == 0x00000001#32 && t.pc == 0x00001004#32) = true := by decide
theorem test_step_cmpltu : after 0x0887803A#32 (withRegs [(1, 0xFFFFFFFF#32), (2, 0x00000001#32)])
    (fun t => t.readReg 3 == 0x00000000#32 && t.pc == 0x00001004#32) = true := by decide
theorem test_step_cmpeqi : after 0x08FFFFE0#32 (withRegs [(1, 0xFFFFFFFF#32)])
    (fun t => t.readReg 3 == 0x00000001#32 && t.pc == 0x00001004#32) = true := by decide
theorem test_step_cmpnei : after 0x08FFFFD8#32 (withRegs [(1, 0xFFFFFFFF#32)])
    (fun t => t.readReg 3 == 0x00000000#32 && t.pc == 0x00001004#32) = true := by decide
theorem test_step_cmpgei : after 0x08FFFFC8#32 (withRegs [(1, 0xFFFFFFFF#32)])
    (fun t => t.readReg 3 == 0x00000001#32 && t.pc == 0x00001004#32) = true := by decide
theorem test_step_cmpgeui : after 0x08FFFFE8#32 (withRegs [(1, 0xFFFFFFFF#32)])
    (fun t => t.readReg 3 == 0x00000001#32 && t.pc == 0x00001004#32) = true := by decide
theorem test_step_cmplti : after 0x08C00010#32 (withRegs [(1, 0xFFFFFFFF#32)])
    (fun t => t.readReg 3 == 0x00000001#32 && t.pc == 0x00001004#32) = true := by decide
theorem test_step_cmpltui : after 0x08FFFFF0#32 (withRegs [(1, 0xFFFFFFFF#32)])
    (fun t => t.readReg 3 == 0x00000000#32 && t.pc == 0x00001004#32) = true := by decide
theorem test_step_rol : after 0x0886183A#32 (withRegs [(1, 0x80000001#32), (2, 0x00000001#32)])
    (fun t => t.readReg 3 == 0x00000003#32 && t.pc == 0x00001004#32) = true := by decide
theorem test_step_ror : after 0x0886583A#32 (withRegs [(1, 0x80000001#32), (2, 0x00000001#32)])
    (fun t => t.readReg 3 == 0xC0000000#32 && t.pc == 0x00001004#32) = true := by decide
theorem test_step_roli : after 0x0806113A#32 (withRegs [(1, 0x12345678#32)])
    (fun t => t.readReg 3 == 0x23456781#32 && t.pc == 0x00001004#32) = true := by decide
theorem test_step_sll : after 0x0886983A#32 (withRegs [(1, 0x00000001#32), (2, 0x0000001F#32)])
    (fun t => t.readReg 3 == 0x80000000#32 && t.pc == 0x00001004#32) = true := by decide
theorem test_step_slli : after 0x0806913A#32 (withRegs [(1, 0xF0000001#32)])
    (fun t => t.readReg 3 == 0x00000010#32 && t.pc == 0x00001004#32) = true := by decide
theorem test_step_sra : after 0x0887D83A#32 (withRegs [(1, 0xFFFFFFF9#32), (2, 0x00000001#32)])
    (fun t => t.readReg 3 == 0xFFFFFFFC#32 && t.pc == 0x00001004#32) = true := by decide
theorem test_step_srl : after 0x0886D83A#32 (withRegs [(1, 0x80000000#32), (2, 0x0000001F#32)])
    (fun t => t.readReg 3 == 0x00000001#32 && t.pc == 0x00001004#32) = true := by decide
theorem test_step_srai : after 0x0807D13A#32 (withRegs [(1, 0x87654321#32)])
    (fun t => t.readReg 3 == 0xF8765432#32 && t.pc == 0x00001004#32) = true := by decide
theorem test_step_srli : after 0x0806D13A#32 (withRegs [(1, 0x87654321#32)])
    (fun t => t.readReg 3 == 0x08765432#32 && t.pc == 0x00001004#32) = true := by decide
theorem test_step_call : after 0x00020000#32 start
    (fun t => t.readReg 31 == 0x00001004#32 && t.pc == 0x00002000#32) = true := by decide
theorem test_step_callr : after 0x103EE83A#32 (withRegs [(2, 0x00003000#32)])
    (fun t => t.readReg 31 == 0x00001004#32 && t.pc == 0x00003000#32) = true := by decide
theorem test_step_ret : after 0xF800283A#32 (withRegs [(31, 0x00001234#32)])
    (fun t => t.pc == 0x00001234#32) = true := by decide
theorem test_step_jmp : after 0x1000683A#32 (withRegs [(2, 0x00004000#32)])
    (fun t => t.pc == 0x00004000#32) = true := by decide
theorem test_step_br : after 0x00000306#32 start
    (fun t => t.pc == 0x00001010#32) = true := by decide
theorem test_step_bge : after 0x0880070E#32 (withRegs [(1, 0x00000007#32), (2, 0x00000007#32)])
    (fun t => t.pc == 0x00001020#32) = true := by decide
theorem test_step_bgeu : after 0x0880072E#32 (withRegs [(1, 0xFFFFFFFF#32), (2, 0x00000001#32)])
    (fun t => t.pc == 0x00001020#32) = true := by decide
theorem test_step_blt : after 0x08800716#32 (withRegs [(1, 0xFFFFFFFF#32), (2, 0x00000001#32)])
    (fun t => t.pc == 0x00001020#32) = true := by decide
theorem test_step_bltu : after 0x08800736#32 (withRegs [(1, 0xFFFFFFFF#32), (2, 0x00000001#32)])
    (fun t => t.pc == 0x00001004#32) = true := by decide
theorem test_step_beq : after 0x08800726#32 (withRegs [(1, 0x00000007#32), (2, 0x00000007#32)])
    (fun t => t.pc == 0x00001020#32) = true := by decide
theorem test_step_bne : after 0x0880071E#32 (withRegs [(1, 0xFFFFFFFF#32), (2, 0x00000001#32)])
    (fun t => t.pc == 0x00001020#32) = true := by decide
theorem test_step_trap : after 0x003B683A#32 { start with status := ⟨true, true⟩ }
    (fun t => t.readReg 29 == 0x00001004#32 && t.status == ⟨false, false⟩ && t.estatus == ⟨true, true⟩ && t.pc == 0x00000020#32) = true := by decide
theorem test_step_eret : after 0xEF80083A#32 { (withRegs [(29, 0x00002000#32)]) with status := ⟨false, false⟩, estatus := ⟨true, true⟩ }
    (fun t => t.status == ⟨true, true⟩ && t.pc == 0x00002000#32) = true := by decide
theorem test_step_brk : after 0x003DA03A#32 { start with status := ⟨true, true⟩ }
    (fun t => t.readReg 30 == 0x00001004#32 && t.status == ⟨false, false⟩ && t.bstatus == ⟨true, true⟩ && t.pc == 0x00000800#32 && t.inDebug) = true := by decide
theorem test_step_bret : after 0xF000483A#32 { (withRegs [(30, 0x00002000#32)]) with status := ⟨false, false⟩, bstatus := ⟨true, true⟩ }
    (fun t => t.status == ⟨true, true⟩ && t.pc == 0x00002000#32) = true := by decide
theorem test_step_rdctl : after 0x0007313A#32 { start with ienable := 0xA#32, irq := 0xC#32 }
    (fun t => t.readReg 3 == 0x00000008#32 && t.pc == 0x00001004#32) = true := by decide
theorem test_step_wrctl : after 0x0801707A#32 (withRegs [(1, 0x00000003#32)])
    (fun t => t.estatus == ⟨true, true⟩ && t.pc == 0x00001004#32) = true := by decide
theorem test_step_flushd : after 0x2000003B#32 { (withRegs [(4, 0x00002000#32)]) with status := ⟨false, true⟩ }
    (fun t => t.pc == 0x00001004#32) = true := by decide
theorem test_step_flushi : after 0x2000603A#32 { (withRegs [(4, 0x00002000#32)]) with status := ⟨false, true⟩ }
    (fun t => t.pc == 0x00001004#32) = true := by decide
theorem test_step_initd : after 0x20000033#32 { (withRegs [(4, 0x00002000#32)]) with status := ⟨false, true⟩ }
    (fun t => t.readReg 29 == 0x00001004#32 && t.status == ⟨false, false⟩ && t.estatus == ⟨false, true⟩ && t.pc == 0x00000020#32) = true := by decide
theorem test_step_initi : after 0x2001483A#32 { (withRegs [(4, 0x00002000#32)]) with status := ⟨false, true⟩ }
    (fun t => t.readReg 29 == 0x00001004#32 && t.status == ⟨false, false⟩ && t.estatus == ⟨false, true⟩ && t.pc == 0x00000020#32) = true := by decide
theorem test_step_flushp : after 0x0000203A#32 start
    (fun t => t.pc == 0x00001004#32) = true := by decide
theorem test_step_sync : after 0x0001B03A#32 start
    (fun t => t.pc == 0x00001004#32) = true := by decide

/-- A core with 32 KB of memory and a peripheral word behind it; what lies above is unmapped. -/
def smallMap : Config :=
  { Config.reference with memMap := [⟨0#32, 0x8000, .memory⟩, ⟨0x8000#32, 4, .peripheral⟩] }

/-- `smallMap` with both caches, of lines of 8 words. -/
def cached : Config := { smallMap with icacheLine := some 3, dcacheLine := some 3 }

/-- `start` on another core. -/
def on (c : Config) : State := { start with cfg := c }

/-- `start` in user mode. -/
def inUserMode : State := { start with status := ⟨true, true⟩ }

/-- A core with the JTAG debug module, in debug mode. -/
def inDebugMode : State := { on { Config.reference with hasJtagDebug := true } with inDebug := true }

/-- A boundary at which an interrupt may be taken and a break is demanded or not. -/
def boundaryWith (irq : Word) (hwBreak : Bool) : Boundary :=
  { irq := irq, accept := true, hwBreak := hwBreak, writes := [], edits := [] }

/-! ### Entries -/

/-- Whether a step answers a state with the property. -/
def steps (s : State) (p : State → Bool) : Bool :=
  match step s with
  | .next t => p t
  | _ => false

/-- The interrupt of 95_test_vectors.md 1.2: the instruction at 0x1018 has no effect. -/
theorem test_interrupt_entry : steps
    { start with pc := 0x1018#32, status := ⟨true, false⟩, ienable := 0x2#32, inputs := [boundaryWith 0x2#32 false] }
    (fun t => t.pc == 0x20#32 && t.readReg 29 == 0x101C#32 && t.estatus == ⟨true, false⟩ && t.status == ⟨false, false⟩) = true := by
  decide

/-- A hardware break comes before a pending interrupt (60_exceptions.md R294). -/
theorem test_hardware_break : steps
    { on { Config.reference with hasJtagDebug := true } with
      pc := 0x100C#32, status := ⟨true, false⟩, ienable := 0x2#32, inputs := [boundaryWith 0x2#32 true] }
    (fun t => t.pc == 0x800#32 && t.readReg 30 == 0x1010#32 && t.bstatus == ⟨true, false⟩ && t.inDebug) = true := by
  decide

/-- `mul` on a core without it (47_custom_nop_unimplemented.md R273). -/
theorem test_mul_unimplemented :
    after 0x0887383A#32 { on { Config.reference with unimplemented := { mul := true } } with status := ⟨true, false⟩ }
    (fun t => t.pc == 0x20#32 && t.readReg 29 == 0x1004#32 && t.readReg 3 == 0xA5A5A5A5#32 && t.estatus == ⟨true, false⟩) = true := by
  decide

/-- `rdctl r3, status` in user mode (60_exceptions.md R304). -/
theorem test_rdctl_in_user_mode : after 0x0007303A#32 { start with status := ⟨false, true⟩ }
    (fun t => t.pc == 0x20#32 && t.readReg 29 == 0x1004#32 && t.readReg 3 == 0xA5A5A5A5#32 && t.estatus == ⟨false, true⟩) = true := by
  decide

/-- `callr ra` goes to the old `ra` (45_program_control.md R231). -/
theorem test_callr_ra : after 0xF83EE83A#32 (withRegs [(31, 0x3000#32)])
    (fun t => t.pc == 0x3000#32 && t.readReg 31 == 0x1004#32) = true := by decide

/-! ### Mixed accesses, stored words, a debug tool -/

/-- Running instructions one after another, whether it answers a state with the property. -/
def runs (l : List Instr) (s : State) (p : State → Bool) : Bool :=
  match runAll l s with
  | .next t => p t
  | _ => false

/-- `ldwio` after `stw` to the same word needs `flushd` between them on a core with a data cache (20_memory.md R77). -/
theorem test_mixed_access :
    (∃ t, exec (.stw 1 0x2000 0) (on cached) = .next t ∧ exec (.ldwio 2 0x2000 0) t = .refused (.mixedAccess 0x2000#32)) ∧
    runs [.stw 1 0x2000 0, .flushd 0x2000 0, .ldwio 2 0x2000 0] (on cached) (fun t => t.readReg 2 == 0xA5A5A5A5#32) = true :=
  ⟨⟨_, rfl, rfl⟩, by decide⟩

/-- After `stb`, `stbio` to the next byte of the word, `flushi` and `flushp` the word still needs `flushd`
(20_memory.md R88, R89). -/
theorem test_pending_store_stays :
    runs [.stb 1 0x2000 0, .stbio 1 0x2001 0, .flushi 3, .flushp] { withRegs [(3, 0x2000#32)] with cfg := cached }
      (fun t => t.stored == [⟨0x2000#32, false, false⟩]) = true := by decide

/-- A debug tool changes a custom register in debug mode (60_exceptions.md R312). -/
theorem test_debug_custom :
    (inDebugMode.edited [.custom { regs := Vector.replicate 32 7#32, inner := 1 }]).custom.regs[31] = 7#32 := by decide

/-! ### States that meet the hypotheses of the statements -/

/-- Two aligned, mapped addresses: the last word of the peripheral and the first of memory. -/
theorem witness_mapped_word : Aligned 0x8000#32 .word ∧ AllMapped smallMap 0x8000#32 .word ∧
    Aligned 0#32 .word ∧ InMemory smallMap 0#32 .word := by
  unfold Aligned AllMapped InMemory; decide

theorem witness_RegisterFile : (0x2000#32 : Word) = start.readReg 0 + (0x2000#16 : Half).signExtend 32 ∧
    Aligned 0x2000#32 .word ∧ AllMapped start.cfg (dataAddr start.cfg 0x2000#32) .word ∧ ¬ start.Mixes true 0x2000#32 .word := by
  refine ⟨by decide, by unfold Aligned; decide, by unfold AllMapped; decide, State.not_mixes_of_no_cache (s := start) rfl _ _ _⟩

/-- The largest immediates that the comparisons with a successor accept (30_encoding.md R120). -/
theorem witness_CompareImmediates : (0x7FFE#16 : Half) ≠ 0x7FFF#16 ∧ (0x8000#16 : Half) ≠ 0x7FFF#16 ∧
    (0xFFFE#16 : Half) ≠ 0xFFFF#16 := by decide

theorem witness_MemoryReadAfterWrite : Memory.wf [(0x2000, 1#8)] ∧ Memory.wf [] := by decide

theorem witness_MemoryKeepsCanonicalForm : Memory.wf [(0x7FFF, 1#8)] ∧ Memory.inside smallMap [(0x7FFF, 1#8)] := by
  unfold Memory.inside; decide

theorem witness_AddAndSubtract : (-32767 : Int) ≤ -32767 ∧ (-32767 : Int) ≤ 32768 ∧ (32768 : Int) ≤ 32768 := by decide

/-- A core that lacks all seven, and one that lacks none. -/
theorem witness_Unimplemented : ∃ s : State, s.cfg.unimplemented = ⟨true, true, true, true, true, true, true⟩ ∧
    start.cfg.unimplemented = {} := ⟨on { smallMap with unimplemented := ⟨true, true, true, true, true, true, true⟩ }, rfl, rfl⟩

theorem witness_DivideSigned : (withRegs [(1, 7#32), (2, 0#32)]).readReg 2 = 0#32 ∧
    (withRegs [(1, 0x80000000#32), (2, 0xFFFFFFFF#32)]).readReg 1 = 0x80000000#32 ∧
    (withRegs [(1, 0x80000000#32), (2, 0xFFFFFFFF#32)]).readReg 2 = 0xFFFFFFFF#32 ∧
    (withRegs [(1, 0x80000001#32), (2, 0xFFFFFFFF#32)]).readReg 1 ≠ 0x80000000#32 := by decide

theorem witness_DivideUnsigned : start.readReg 0 = 0#32 ∧ start.readReg 1 ≠ 0#32 := by decide

theorem witness_Shifts : 31 = ((withRegs [(2, 0xFFFFFFFF#32)]).readReg 2).toNat % 32 ∧ 0 = (start.readReg 0).toNat % 32 := by
  decide

theorem witness_Rotates : 31 = ((withRegs [(2, 0xFFFFFFFF#32)]).readReg 2).toNat % 32 ∧ 0 = (start.readReg 0).toNat % 32 := by
  decide

/-- The word at 0x2000 has been accessed through the data cache. -/
def afterPlainAccess : State := (on cached).viewed false 0x2000#32 .word

/-- The fourth case of each access: a byte of memory at the end of the word accessed the other way, and a byte
behind it that was not; a core without a data cache has one way only. -/
theorem witness_Mixes : afterPlainAccess.Mixes true 0x2003#32 .byte ∧ afterPlainAccess.Mixes true 0x2002#32 .half ∧
    afterPlainAccess.Mixes true 0x2000#32 .word ∧ ¬ afterPlainAccess.Mixes true 0x2004#32 .word ∧
    ¬ afterPlainAccess.Mixes false 0x2000#32 .word ∧ ¬ (on smallMap).Mixes true 0x2000#32 .word := by
  simp only [← State.mixes_iff]
  decide

/-- The first three cases of a word access: the last word of the peripheral, an address two above it, and the
first unmapped word. -/
theorem witness_LoadWords : (0x8000#32 : Word) = (withRegs [(4, 0x8004#32)]).readReg 4 + (0xFFFC#16 : Half).signExtend 32 ∧
    Aligned 0x8000#32 .word ∧ AllMapped smallMap (dataAddr smallMap 0x8000#32) .word ∧ ¬ Aligned 0x8002#32 .word ∧
    Aligned 0x8004#32 .word ∧ ¬ AllMapped smallMap (dataAddr smallMap 0x8004#32) .word := by
  unfold Aligned AllMapped; decide

theorem witness_LoadHalves : (0x8002#32 : Word) = (withRegs [(4, 0x8002#32)]).readReg 4 + (0#16 : Half).signExtend 32 ∧
    Aligned 0x8002#32 .half ∧ AllMapped smallMap (dataAddr smallMap 0x8002#32) .half ∧ ¬ Aligned 0x8003#32 .half ∧
    Aligned 0x8004#32 .half ∧ ¬ AllMapped smallMap (dataAddr smallMap 0x8004#32) .half := by
  unfold Aligned AllMapped; decide

theorem witness_LoadBytes : (0x8003#32 : Word) = (withRegs [(4, 0x8004#32)]).readReg 4 + (0xFFFF#16 : Half).signExtend 32 ∧
    Aligned 0x8003#32 .byte ∧ AllMapped smallMap (dataAddr smallMap 0x8003#32) .byte ∧
    Aligned 0x8004#32 .byte ∧ ¬ AllMapped smallMap (dataAddr smallMap 0x8004#32) .byte := by
  unfold Aligned AllMapped; decide

theorem witness_StoreInstructions : (0x7FFC#32 : Word) = (on smallMap).readReg 0 + (0x7FFC#16 : Half).signExtend 32 ∧
    (on smallMap).mem.wf ∧ Aligned 0x7FFC#32 .word ∧ AllMapped smallMap (dataAddr smallMap 0x7FFC#32) .word ∧
    ¬ Aligned 0x7FFD#32 .word ∧ ¬ AllMapped smallMap (dataAddr smallMap 0x8004#32) .word := by
  unfold Aligned AllMapped; decide

theorem witness_Calls : ((withRegs [(2, 0x3000#32)]).readReg 2).toNat % 4 = 0 ∧
    ((withRegs [(2, 0x3003#32)]).readReg 2).toNat % 4 ≠ 0 := by decide

/-- Targets of `ret`, `jmp` and `br`, a multiple of 4 and not. -/
theorem witness_Jumps : ((withRegs [(31, 0x3000#32)]).readReg 31).toNat % 4 = 0 ∧
    (BitVec.ofInt 32 ((start.pc.toNat : Int) + 4 + (0xFFFC#16 : Half).toInt)).toNat % 4 = 0 ∧
    (BitVec.ofInt 32 ((start.pc.toNat : Int) + 4 + (0x0001#16 : Half).toInt)).toNat % 4 ≠ 0 := by decide

theorem witness_ConditionalBranches :
    (0x1020#32 : Word) = BitVec.ofInt 32 ((start.pc.toNat : Int) + 4 + (0x001C#16 : Half).toInt) ∧
    (0x1005#32 : Word) = BitVec.ofInt 32 ((start.pc.toNat : Int) + 4 + (0x0001#16 : Half).toInt) ∧
    start.readReg 1 = start.readReg 2 ∧ start.readReg 1 ≠ start.readReg 0 ∧
    (start.readReg 1).toInt < (start.readReg 0).toInt ∧ (start.readReg 0).toNat < (start.readReg 1).toNat := by decide

theorem witness_ExceptionReturn : inUserMode.status.u = true ∧ start.status.u = false ∧
    ((withRegs [(29, 0x2000#32)]).readReg 29).toNat % 4 = 0 ∧ ((withRegs [(29, 0x2001#32)]).readReg 29).toNat % 4 ≠ 0 ∧
    (withRegs [(29, 0x2000#32)]).status.u = false := by decide

theorem witness_BreakReturn : inUserMode.status.u = true ∧ inDebugMode.status.u = false ∧
    ((withRegs [(30, 0x2000#32)]).readReg 30).toNat % 4 = 0 ∧ ((withRegs [(30, 0x2002#32)]).readReg 30).toNat % 4 ≠ 0 := by
  decide

theorem witness_ReadControlRegister : inUserMode.status.u = true ∧ start.status.u = false ∧ 5 < (6 : CtlNum).val ∧
    5 < (31 : CtlNum).val := by decide

theorem witness_WriteControlRegister : start.status.u = false ∧
    (2#32 = (withRegs [(1, 2#32)]).readReg 1 ∧ (2#32).getLsbD 1 = true ∧ start.cfg.hasUserMode = true) ∧
    ¬ ((1#32).getLsbD 1 = true ∧ start.cfg.hasUserMode = true) ∧ 5 < (6 : CtlNum).val := by decide

theorem witness_CacheAndOrdering : (0x2000#32 : Word) = start.readReg 0 + (0x2000#16 : Half).signExtend 32 ∧
    start.status.u = false ∧ (Instr.initi 0 = .flushi 0 ∨ (Instr.initi 0 = .initi 0 ∧ start.status.u = false)) := by decide

/-- A byte and an io halfword within the word at 0x2000, on a core with both caches. -/
theorem witness_WrittenCodeNeedsFlushing : ∃ s : State, s.cfg = cached ∧ s.mem.wf ∧ s.readReg 2 = 0x2000#32 ∧
    (0x2003#32 : Word) = s.readReg 1 + (3#16 : Half).signExtend 32 ∧ 0x2000#32 = wordOf (dataAddr s.cfg 0x2003#32) ∧
    Aligned 0x2003#32 .byte ∧ ¬ s.Mixes false 0x2003#32 .byte ∧ 0x2000#32 = wordOf (dataAddr s.cfg 0x2002#32) ∧
    Aligned 0x2002#32 .half ∧ ¬ s.Mixes true 0x2002#32 .half ∧ InMemory s.cfg 0x2000#32 .word := by
  refine ⟨{ withRegs [(1, 0x2000#32), (2, 0x2000#32)] with cfg := cached }, ?_⟩
  simp only [← State.mixes_iff]
  unfold Aligned InMemory
  decide

theorem witness_CustomInstructions : (0 : Byte) ∈ (on { smallMap with customPresent := [0, 255] }).cfg.customPresent ∧
    (255 : Byte) ∈ (on { smallMap with customPresent := [0, 255] }).cfg.customPresent ∧
    (1 : Byte) ∉ (on { smallMap with customPresent := [0, 255] }).cfg.customPresent ∧
    XReg.r 1 = .r 1 ∧ XReg.c 31 = .c 31 := by decide

theorem reset_sound (c : Config) (pc : BitVec 30) (b : StatusBits) (h : c.hasUserMode = true) :
    ({ State.resetOn c with pc := pc ++ 0#2, status := b } : State).Sound :=
  ⟨⟨List.Pairwise.nil, fun _ he => (nomatch he)⟩, fun _ he => (nomatch he), word_aligned pc,
    fun hu => absurd (h.symm.trans hu) (by decide), fun _ he => (nomatch he), List.nodup_nil,
    fun _ he => (nomatch he)⟩

theorem witness_PrivilegedInUserMode : inUserMode.status.u = true ∧ isPrivileged .eret = true ∧
    ∃ s : State, s.Sound ∧ s.cfg.hasUserMode = false :=
  ⟨rfl, rfl, State.resetOn { smallMap with hasUserMode := false },
    ⟨⟨List.Pairwise.nil, fun _ he => (nomatch he)⟩, fun _ he => (nomatch he), by decide, fun _ => by decide,
      fun _ he => (nomatch he), List.nodup_nil, fun _ he => (nomatch he)⟩, rfl⟩

theorem witness_UnimplementedInstructions : (∀ d : Config, absentOn d (.add 1 2 3) = false) ∧
    ∃ t, exec (.add 1 2 3) start = .next t := ⟨fun _ => rfl, _, rfl⟩

theorem witness_ControlRegisterWriters :
    (∃ t, exec .trap inUserMode = .next t ∧ t.estatus ≠ inUserMode.estatus ∧ t.status ≠ inUserMode.status) ∧
    (∃ t, exec (.brk 0) inUserMode = .next t ∧ t.bstatus ≠ inUserMode.bstatus ∧ t.inDebug ≠ inUserMode.inDebug) ∧
    ∃ t, exec (.wrctl 3 1) start = .next t ∧ t.ienable ≠ start.ienable :=
  ⟨⟨_, rfl, by decide⟩, ⟨_, rfl, by decide⟩, ⟨_, rfl, by decide⟩⟩

theorem witness_StepRunsInstruction : ∃ (s : State) (i : Instr), s.breakDemanded = false ∧ s.interruptTaken = false ∧
    s.sampled.pc.toNat % 4 = 0 ∧ InMemory s.cfg s.sampled.pc .word ∧ (∀ e ∈ s.stored, e.addr ≠ s.sampled.pc) ∧
    decode [s.sampled.mem.read s.sampled.pc, s.sampled.mem.read (s.sampled.pc + 1#32),
      s.sampled.mem.read (s.sampled.pc + 2#32), s.sampled.mem.read (s.sampled.pc + 3#32)] = .ok (i, []) := by
  refine ⟨(on smallMap).withFetchWord 32 0x0887883A, .add 3 1 2, ?_⟩
  unfold InMemory; decide

/-- The three stops of the fetch: two above a word, the first unmapped word, the last word of memory stored to. -/
theorem witness_StepRunsInstruction_stops : ∀ p : Word, p = 0x1002#32 ∨ p = 0x8004#32 ∨ p = 0x7FFC#32 →
    ∃ s : State, s.breakDemanded = false ∧ s.interruptTaken = false ∧ s.sampled.pc = p ∧ s.cfg = smallMap ∧
      (∃ e ∈ s.stored, e.addr = 0x7FFC#32) ∧ ¬ AllMapped smallMap 0x8004#32 .word ∧ AllMapped smallMap 0x7FFC#32 .word := by
  intro p h
  refine ⟨{ on smallMap with pc := p, stored := [⟨0x7FFC#32, true, true⟩] }, ?_⟩
  unfold AllMapped
  rcases h with rfl | rfl | rfl <;> decide

theorem witness_InterruptCondition : start.status.u = false ∧
    ({ start with status := ⟨true, false⟩, irq := 0x80000000#32, ienable := 0x80000000#32 } : State).interruptRequest = true := by
  decide

/-- An interrupt that is pending and accepted, and one not accepted; none pending; one pending with no boundary
listed. -/
theorem witness_InterruptTaken :
    (∃ s : State, s.breakDemanded = false ∧ s.sampled.interruptRequest = true ∧ s.boundary.accept = true ∧ s.inputs ≠ []) ∧
    (∃ s : State, s.breakDemanded = false ∧ s.sampled.interruptRequest = true ∧ s.boundary.accept = false) ∧
    (start.breakDemanded = false ∧ start.sampled.interruptRequest = false) ∧
    ∃ s : State, s.breakDemanded = false ∧ s.inputs = [] ∧ s.interruptRequest = true :=
  ⟨⟨{ start with status := ⟨true, false⟩, ienable := 1#32, inputs := [boundaryWith 1#32 false] }, by decide⟩,
    ⟨{ start with status := ⟨true, false⟩, ienable := 1#32, inputs := [{ boundaryWith 1#32 false with accept := false }] },
      by decide⟩, by decide, ⟨{ start with status := ⟨true, false⟩, ienable := 1#32, irq := 1#32 }, by decide⟩⟩

theorem witness_HardwareBreak : (∃ s : State, s.cfg.hasJtagDebug = true ∧ s.boundary.hwBreak = true) ∧
    start.cfg.hasJtagDebug = false ∧ start.sampled.interruptRequest = false :=
  ⟨⟨{ inDebugMode with inputs := [boundaryWith 0#32 true] }, by decide⟩, by decide⟩

/-- The word 0x00000001, whose `OP` is unassigned, under each policy, with a boundary listed that writes it. -/
theorem witness_InvalidWords : ∀ policy : InvalidPolicy, ∃ s : State, s.cfg.invalidInsn = policy ∧ s.inputs ≠ [] ∧
    s.breakDemanded = false ∧ s.interruptTaken = false ∧ s.sampled.pc.toNat % 4 = 0 ∧
    InMemory s.cfg s.sampled.pc .word ∧ (∀ x ∈ s.stored, x.addr ≠ s.sampled.pc) ∧
    0x00000001#32 = s.sampled.mem.read (s.sampled.pc + 3#32) ++ s.sampled.mem.read (s.sampled.pc + 2#32) ++
      s.sampled.mem.read (s.sampled.pc + 1#32) ++ s.sampled.mem.read s.sampled.pc ∧
    decodeWord 0x00000001#32 = .error (.unassignedOp 1#6) := by
  intro policy
  refine ⟨{ on { smallMap with invalidInsn := policy } with
    inputs := [{ boundaryWith 1#32 false with writes := [(0x1000#32, 1#8)] }] }, rfl, ?_⟩
  unfold InMemory; cases policy <;> decide

/-- A sound state whose step answers; it also serves the statements on the configuration and the transfers. -/
theorem witness_StepKeepsSound : State.reset.Sound ∧ ∃ t, step State.reset = .next t :=
  ⟨reset_sound Config.reference 0#30 ⟨false, false⟩ rfl, _, rfl⟩

theorem witness_StepKeepsConfiguration : ∃ t, step State.reset = .next t := ⟨_, rfl⟩

/-- An io load, a plain access, an instruction that is neither on a core with the bypass, an interrupt, and a step
over the word 0x00000001. -/
theorem witness_BusTransfersInOrder :
    (∃ t, step (start.withFetchWord 32 0x00000037) = .next t ∧ t.ioLog.length = 1) ∧
    (ioForm (.ldwio 0 0 0) = some (false, .word) ∧ ioForm (.ldw 0 0 0) = none ∧ start.cfg.bit31Bypass = false) ∧
    (ioForm .trap = none ∧ isPlainAccess .trap = false ∧ isPlainAccess (.stb 0 0 0) = true) ∧
    (∃ t, step ((on { smallMap with bit31Bypass := true }).withFetchWord 32 0x003B683A) = .next t) ∧
    (∃ t, step ((on { smallMap with invalidInsn := .nop }).withFetchWord 32 0x00000001) = .next t) ∧
    ({ start with status := ⟨true, false⟩, ienable := 1#32, inputs := [boundaryWith 1#32 false] } : State).interruptTaken = true :=
  ⟨⟨_, rfl, by decide⟩, by decide, by decide, ⟨_, rfl⟩, ⟨_, rfl⟩, by decide⟩

/-- The three ways of 60_exceptions.md R304, R290 and R310 from user mode: `add`, `trap`, `break`. -/
theorem witness_UserModeConfined : (inUserMode.withFetchWord 32 0x0887883A).mode = .user ∧
    (∃ t, step (inUserMode.withFetchWord 32 0x0887883A) = .next t ∧ t.mode = .user) ∧
    (∃ t, step (inUserMode.withFetchWord 32 0x003B683A) = .next t ∧ t.mode = .supervisor) ∧
    ∃ t, step (inUserMode.withFetchWord 32 0x003DA03A) = .next t ∧ t.mode = .debug :=
  ⟨rfl, ⟨_, rfl, by decide⟩, ⟨_, rfl, by decide⟩, ⟨_, rfl, by decide⟩⟩

/-- `eret` and `bret` to user mode, `break` into debug mode, `bret` out of it, `trap` out of user mode. -/
theorem witness_ModeTransitions :
    (∃ s t : State, step s = .next t ∧ s.mode = .supervisor ∧ t.mode = .user ∧ s.estatus.u = true ∧
      s.cfg.hasUserMode = true) ∧
    (∃ s t : State, step s = .next t ∧ s.mode = .supervisor ∧ t.mode = .user ∧ s.bstatus.u = true) ∧
    (∃ s t : State, step s = .next t ∧ s.mode ≠ .debug ∧ t.mode = .debug) ∧
    (∃ s t : State, step s = .next t ∧ s.mode = .debug ∧ t.mode ≠ .debug) ∧
    ∃ s t : State, step s = .next t ∧ s.mode = .user ∧ t.mode = .supervisor :=
  ⟨⟨{ (withRegs [(29, 0x2000#32)]).withFetchWord 32 0xEF80083A with estatus := ⟨false, true⟩ }, _, rfl, by decide⟩,
    ⟨{ (withRegs [(30, 0x2000#32)]).withFetchWord 32 0xF000483A with bstatus := ⟨false, true⟩ }, _, rfl, by decide⟩,
    ⟨start.withFetchWord 32 0x003DA03A, _, rfl, by decide⟩,
    ⟨{ (withRegs [(30, 0x2000#32)]).withFetchWord 32 0xF000483A with inDebug := true }, _, rfl, by decide⟩,
    ⟨inUserMode.withFetchWord 32 0x003B683A, _, rfl, by decide⟩⟩

theorem witness_IenableWrittenByWrctlOnly : ∃ s t : State, (s.cfg.hasJtagDebug && s.inDebug) = false ∧ step s = .next t ∧
    t.ienable ≠ s.ienable := ⟨start.withFetchWord 32 0x100170FA, _, rfl, rfl, by decide⟩

theorem witness_PseudoInstructionsRunAsExpanded : Instr.isMachine (.cmpgti 1 2 0x7FFE) = false ∧
    Instr.wellFormed (.cmpgti 1 2 0x7FFE) = true ∧ Instr.isMachine (.movia 1 0xFFFFFFFF) = false ∧
    Instr.wellFormed (.movia 1 0xFFFFFFFF) = true := by decide

theorem witness_PseudoInstructionsAreTheirExpansions : Instr.wellFormed (.subi 1 2 32768) = true ∧
    Instr.wellFormed (.add 1 2 3) = true ∧ Instr.isMachine (.add 1 2 3) = true := by decide

theorem witness_LittleEndianMemory : ∃ s t v : State, s.mem.wf ∧ Aligned 0x7FFC#32 .word ∧
    dataAddr s.cfg 0x7FFC#32 = 0x7FFC#32 ∧ InMemory s.cfg 0x7FFC#32 .word ∧
    s.store false 0x7FFC#32 .word 0x80FF7F01#32 = .next t ∧ s.store false 0x7FFC#32 .half 0x7F01#32 = .next v ∧
    InMemory t.cfg t.pc .word :=
  ⟨on smallMap, _, _, by decide, by unfold Aligned; decide, by decide, by unfold InMemory; decide, rfl, rfl,
    by unfold InMemory; decide⟩

theorem witness_DecodeOfEncode : Instr.isMachine (.custom 255 (.c 31) (.r 0) (.c 1)) = true ∧ Instr.isMachine .eret = true := by
  decide

theorem witness_EncodeOfDecode : decodeWord 0xFFFFFFC0#32 = .ok (.call 0x3FFFFFF) := by decide

theorem witness_TrapThenReturn : ∃ s : State, s.Sound ∧ s.mode = .user :=
  ⟨_, reset_sound smallMap 0x400#30 ⟨true, true⟩ rfl, rfl⟩

theorem witness_InterruptThenReturn : ∃ s : State, s.Sound ∧ s.status.pie = true :=
  ⟨_, reset_sound smallMap 0x3FFFFFFF#30 ⟨true, false⟩ rfl, rfl⟩

theorem witness_BreakThenReturn : ∃ s : State, s.Sound ∧ s.mode ≠ .debug :=
  ⟨_, reset_sound smallMap 0x400#30 ⟨true, true⟩ rfl, by decide⟩

theorem witness_DebugToolChanges : (inDebugMode.cfg.hasJtagDebug && inDebugMode.inDebug) = true ∧
    (start.cfg.hasJtagDebug && start.inDebug) = false := by decide

/-- No boundary listed; one listed; a canonical memory. -/
theorem witness_BoundaryEffect : start.inputs = [] ∧ start.mem.wf ∧ (start.cfg.hasJtagDebug && start.inDebug) = false ∧
    ∃ s : State, s.inputs = [boundaryWith 1#32 true] ∧ (s.cfg.hasJtagDebug && s.inDebug) = true :=
  ⟨rfl, by decide, by decide, { inDebugMode with inputs := [boundaryWith 1#32 true] }, rfl, by decide⟩

/-- The inputs of the boundary are those the step sees, and another master's byte lies in memory. -/
theorem test_boundary :
    ({ start with inputs := [{ boundaryWith 4#32 false with writes := [(0x2000#32, 7#8)] }] } : State).sampled.irq = 4#32 ∧
    ({ start with inputs := [{ boundaryWith 4#32 false with writes := [(0x2000#32, 7#8)] }] } : State).sampled.mem =
      [(0x2000, 7#8)] := by decide

end Sys2Proof.Tests
end

section
/-! PROOFS of the family 00_scope.md: what a step does with the configuration, at its boundary and with the four
bytes at `pc`. -/

namespace Sys2Proof

/-! ### The decoder yields well-formed instructions (30_encoding.md R110) -/

theorem strictly_isMachine {ok : Bool} {w : Word} {i j : Instr} (h : strictly ok w i = .ok j)
    (hi : i.isMachine = true) : j.isMachine = true := (strictly_eq_ok h).2 ▸ hi

theorem decodeR_isMachine {w : Word} {i : Instr} (h : decodeR w = .ok i) : i.isMachine = true := by
  unfold decodeR at h
  split at h
  case h_41 => cases h
  all_goals exact strictly_isMachine h rfl

/-- The decoder yields machine instructions only (30_encoding.md R110, R120). -/
theorem decodeWord_isMachine {w : Word} {i : Instr} (h : decodeWord w = .ok i) : i.isMachine = true := by
  unfold decodeWord at h
  split at h
  case h_5 | h_35 | h_41 => exact strictly_isMachine h rfl
  case h_40 => exact decodeR_isMachine h
  case h_43 => cases h
  all_goals cases h; rfl

/-- Only pseudo-instructions have operand ranges that their fields do not carry (30_encoding.md R120). -/
theorem Instr.wellFormed_of_isMachine {i : Instr} (h : i.isMachine = true) : i.wellFormed = true := by
  cases i with
  | subi | cmpgti | cmpgtui | cmplei | cmpleui => simp [Instr.isMachine] at h
  | _ => rfl

/-- A decoded instruction with no byte left over is the four bytes' word decoded (20_memory.md R65). -/
theorem decodeWord_of_decode {b0 b1 b2 b3 : Byte} {i : Instr} {rest : List Byte}
    (h : decode [b0, b1, b2, b3] = .ok (i, rest)) : decodeWord (wordOfBytes b0 b1 b2 b3) = .ok i := by
  simp only [decode] at h
  split at h
  · next j hj => cases h; exact hj
  · cases h

end Sys2Proof

namespace Sys2Proof.Machine

/-! ### What one instruction can do to the configuration and the control registers -/

/-- Everything an instruction `i` that answers `t` from `s` can have done to the configuration, the control
registers and the debug mode bit (10_state.md R38). -/
inductive ControlEffect (i : Instr) (s t : State) : Prop
  /-- They are as before. -/
  | kept (same : s.SameControl t)
  /-- It took an exception: `trap`, a privileged instruction in user mode, or one the core lacks. -/
  | exception (cause : i = .trap ∨ (isPrivileged i = true ∧ s.status.u = true) ∨ absentOn s.cfg i = true)
      (result : t = s.exceptionEntry (s.pc + 4#32))
  /-- It was `break`. -/
  | breakEntry (k : BitVec 5) (instr : i = .brk k) (result : t = s.breakEntry (s.pc + 4#32))
  /-- It was `eret` outside user mode. -/
  | exceptionReturn (instr : i = .eret) (notUser : s.status.u = false) (result : s.exceptionReturn = .next t)
  /-- It was `bret` outside user mode. -/
  | breakReturn (c : BitVec 5) (instr : i = .bret c) (notUser : s.status.u = false) (result : s.breakReturn = .next t)
  /-- It was `wrctl` outside user mode. -/
  | writeCtl (n : CtlNum) (rA : Reg) (u : State) (instr : i = .wrctl n rA) (notUser : s.status.u = false)
      (written : s.writeCtl n (s.readReg rA) = .next u) (result : t = u.advance)

/-- An instruction that first writes a register and then jumps. -/
theorem State.writeReg_jump_sameControl {s t : State} {r : Reg} {v p : Word} (h : (s.writeReg r v).jump p = .next t) :
    s.SameControl t := (s.writeReg_sameControl r v).trans (State.jump_sameControl h)

theorem execCustom_sameControl {n : Byte} {xC xA xB : XReg} {s t : State} (h : execCustom n xC xA xB s = .next t) :
    s.SameControl t := by
  unfold execCustom at h
  split at h
  · obtain rfl := Host.Outcome.next.inj h
    exact (s.customWrite_sameControl xC _).trans (State.advance_sameControl _)
  · cases h

/-- A potentially unimplemented instruction takes the exception where the core lacks it. -/
theorem ControlEffect.of_unlessAbsent {i : Instr} {s t : State} {body : Result}
    (h : s.unlessAbsent (absentOn s.cfg i) body = .next t) (hbody : body = .next t → s.SameControl t) :
    ControlEffect i s t := by
  rcases State.unlessAbsent_eq_next h with ⟨ha, ht⟩ | ⟨-, hb⟩
  · exact .exception (.inr (.inr ha)) ht
  · exact .kept (hbody hb)

/-- A privileged instruction takes the exception in user mode. -/
theorem ControlEffect.of_privileged {i : Instr} {s t : State} {body : Result} (hi : isPrivileged i = true)
    (h : s.privileged body = .next t) (hbody : s.status.u = false → body = .next t → ControlEffect i s t) :
    ControlEffect i s t := by
  rcases State.privileged_eq_next h with ⟨hu, ht⟩ | ⟨hu, hb⟩
  · exact .exception (.inr (.inl ⟨hi, hu⟩)) ht
  · exact hbody hu hb

/-- The effect of every instruction that answers, by the shared operation its meaning ends in. -/
theorem exec_controlEffect {i : Instr} {s t : State} (h : exec i s = .next t) : ControlEffect i s t := by
  cases i with
  | and | or | xor | nor | andi | ori | xori | andhi | orhi | xorhi | add | sub | addi | subi | mov | movhi | movi
  | movui | rol | ror | roli | sll | slli | sra | srl | srai | srli | cmpeq | cmpne | cmpge | cmpgeu | cmpgt | cmpgtu
  | cmple | cmpleu | cmplt | cmpltu | cmpeqi | cmpnei | cmpgei | cmpgeui | cmpgti | cmpgtui | cmplei | cmpleui | cmplti
  | cmpltui => exact .kept (State.finish_sameControl h)
  | mul | muli | mulxss | mulxsu | mulxuu => exact .of_unlessAbsent h State.finish_sameControl
  | div | divu => exact .of_unlessAbsent h State.divide_sameControl
  | ldw | ldwio | ldb | ldbu | ldbio | ldbuio | ldh | ldhu | ldhio | ldhuio =>
    exact .kept (State.loadInto_sameControl h)
  | stw | stwio | stb | stbio | sth | sthio => exact .kept (State.storeFrom_sameControl h)
  | bge | bgeu | bgt | bgtu | ble | bleu | blt | bltu | beq | bne => exact .kept (State.branchIf_sameControl h)
  | br | jmp | ret => exact .kept (State.jump_sameControl h)
  | call | callr => exact .kept (State.writeReg_jump_sameControl h)
  | custom => exact .kept (execCustom_sameControl h)
  | nop | sync | flushp => obtain rfl := Host.Outcome.next.inj h; exact .kept ⟨rfl, rfl, rfl, rfl, rfl, rfl⟩
  | movia rB label =>
    obtain rfl := Host.Outcome.next.inj h
    exact .kept ((s.writeReg_sameControl rB label).trans ⟨rfl, rfl, rfl, rfl, rfl, rfl⟩)
  | flushd =>
    obtain rfl := Host.Outcome.next.inj h
    exact .kept ((s.flushDataLine_sameControl _).trans (State.advance_sameControl _))
  | flushi =>
    obtain rfl := Host.Outcome.next.inj h
    exact .kept ((s.invalidateInstructionLine_sameControl _).trans (State.advance_sameControl _))
  | initd =>
    refine .of_privileged rfl h fun _ hb => ?_
    obtain rfl := Host.Outcome.next.inj hb
    exact .kept ((s.invalidateDataLine_sameControl _).trans (State.advance_sameControl _))
  | initi =>
    refine .of_privileged rfl h fun _ hb => ?_
    obtain rfl := Host.Outcome.next.inj hb
    exact .kept ((s.invalidateInstructionLine_sameControl _).trans (State.advance_sameControl _))
  | rdctl =>
    refine .of_privileged rfl h fun _ hb => ?_
    obtain ⟨r, hr, hf⟩ := andThen_eq_next hb
    exact .kept ((State.readCtl_sameControl hr).trans (State.finish_sameControl hf))
  | wrctl n rA =>
    refine .of_privileged rfl h fun hu hb => ?_
    obtain ⟨u, hw, ht⟩ := andThen_eq_next hb
    exact .writeCtl n rA u rfl hu hw (Host.Outcome.next.inj ht).symm
  | eret => exact .of_privileged rfl h (.exceptionReturn rfl)
  | bret c => exact .of_privileged rfl h (.breakReturn c rfl)
  | trap => exact .exception (.inl rfl) (Host.Outcome.next.inj h).symm
  | brk k => exact .breakEntry k rfl (Host.Outcome.next.inj h).symm

/-! ### The configuration (00_scope.md R5) -/

theorem State.writeCtl_cfg {s t : State} {n : CtlNum} {v : Word} (h : s.writeCtl n v = .next t) : t.cfg = s.cfg := by
  rcases State.writeCtl_eq_next h with ⟨-, rfl⟩ | ⟨-, rfl⟩ | ⟨-, rfl⟩ | ⟨-, rfl⟩ | ⟨-, rfl⟩ <;> rfl

theorem exec_cfg {i : Instr} {s t : State} (h : exec i s = .next t) : t.cfg = s.cfg := by
  cases exec_controlEffect h with
  | kept same => exact same.cfg
  | exception _ result => rw [result, State.exceptionEntry_cfg]
  | breakEntry _ _ result => rw [result, State.breakEntry_cfg]
  | exceptionReturn _ _ result => rw [(State.exceptionReturn_eq_next result).2]
  | breakReturn _ _ _ result => rw [(State.breakReturn_eq_next result).2]
  | writeCtl _ _ u _ _ written result => rw [result, State.advance_cfg, State.writeCtl_cfg written]

theorem State.invalidWord_cfg {s t : State} {w : Word} (h : s.invalidWord w = .next t) : t.cfg = s.cfg := by
  unfold State.invalidWord at h
  split at h
  · cases h
  · rw [← Host.Outcome.next.inj h, State.advance_cfg]
  · rw [← Host.Outcome.next.inj h, State.exceptionEntry_cfg]

theorem State.fetch_cfg {s : State} {r : Word × State} (h : s.fetch = .next r) : r.2.cfg = s.cfg := by
  obtain ⟨-, -, -, rfl⟩ := State.fetch_eq_next h
  rfl

@[simp] theorem State.sampled_cfg (s : State) : s.sampled.cfg = s.cfg := s.sampled_same.1

/-- Settles O44, by the four ways a step can answer. -/
theorem stepKeepsConfiguration : Obligations.StepKeepsConfiguration := by
  intro s t h
  rcases step_eq_next h with ⟨-, rfl⟩ | ⟨-, -, rfl⟩ | ⟨-, -, r, hr, ⟨i, -, hx⟩ | ⟨e, -, hx⟩⟩
  · rw [State.breakEntry_cfg, State.sampled_cfg]
  · rw [State.exceptionEntry_cfg, State.sampled_cfg]
  · rw [exec_cfg hx, State.fetch_cfg hr, State.sampled_cfg]
  · rw [State.invalidWord_cfg hx, State.fetch_cfg hr, State.sampled_cfg]

/-! ### The boundary (00_scope.md R8) -/

@[simp] theorem State.sampled_stored (s : State) : s.sampled.stored = s.stored := s.sampled_same.2.2.1

/-- With no boundary listed nothing happens, and a pending interrupt is accepted (log entry 6). -/
theorem State.boundaryEffect_nil {s : State} (h : s.inputs = []) :
    s.sampled = s ∧ s.breakDemanded = false ∧ s.interruptTaken = s.interruptRequest := by
  have hs := State.sampled_of_no_inputs h
  have hb := State.boundary_nil h
  exact ⟨hs, by simp [State.breakDemanded, hb], by simp [State.interruptTaken, hs, hb]⟩

/-- The state at a listed boundary. -/
theorem State.sampled_cons {s : State} {b : Boundary} {rest : List Boundary} (h : s.inputs = b :: rest) :
    s.sampled = ({ s with irq := b.irq, mem := externalWrites s.cfg s.mem b.writes, inputs := rest } : State).edited
      b.edits := by
  rw [State.sampled, State.boundary_cons h, h, List.tail_cons]

/-- Where no debug tool reaches, the boundary leaves what the processor holds (60_exceptions.md R312). -/
theorem State.sampled_keeps_processor {s : State} (h : (s.cfg.hasJtagDebug && s.inDebug) = false) :
    s.sampled.pc = s.pc ∧ s.SameRegs s.sampled ∧ s.SameControl s.sampled ∧ s.sampled.custom = s.custom := by
  rw [State.sampled_of_not h]
  exact ⟨rfl, fun q => State.readReg_congr rfl q, ⟨rfl, rfl, rfl, rfl, rfl, rfl⟩, rfl⟩

/-- Of other masters' writes the last is made on what the earlier ones left, in memory regions only
(20_memory.md R87). -/
theorem externalWrites_concat_read {m : Memory} (h : m.wf) (c : Config) (l : List (Word × Byte)) (a x : Word)
    (v : Byte) :
    (externalWrites c m (l ++ [(a, v)])).read x =
      if x = a ∧ kindAt c a = some .memory then v else (externalWrites c m l).read x := by
  rw [externalWrites_append]
  exact storeByte_read (externalWrites_wf c l h) c a x v

/-- Settles O60. -/
theorem boundaryEffect : Obligations.BoundaryEffect := by
  intro s
  refine ⟨State.boundaryEffect_nil, fun b rest h => ?_, rfl, fun hwf => externalWrites_concat_read hwf s.cfg⟩
  have hb := State.boundary_cons h
  obtain ⟨hcfg, hdebug, hstored, hviews, hlog, hdraws, hu, hirq, hinputs, hmem⟩ := s.sampled_same
  rw [hb] at hirq hmem
  rw [h, List.tail_cons] at hinputs
  exact ⟨State.sampled_cons h, hirq, hmem, hinputs, hcfg, hdebug, hu, hstored, hviews, hlog, hdraws,
    State.sampled_keeps_processor, by rw [State.breakDemanded, hb], by rw [State.interruptTaken, hb]⟩

/-! ### The instruction a step runs -/

/-- A word that is memory throughout is loaded from memory, little-endian (20_memory.md R64). -/
theorem State.loadValue_word_of_inMemory {s : State} {p : Word} (h : InMemory s.cfg p .word) :
    s.loadValue p .word = wordOfBytes (s.mem.read p) (s.mem.read (p + 1#32)) (s.mem.read (p + 2#32))
      (s.mem.read (p + 3#32)) := by
  have byte (k : Nat) (hk : k < 4) : s.loadByte p k = s.mem.read (p + BitVec.ofNat 32 k) := by
    rw [State.loadByte_eq, State.answeredByte, if_pos (h k hk)]
  rw [State.loadValue, byte 0 (by decide), byte 1 (by decide), byte 2 (by decide), byte 3 (by decide), BitVec.add_zero]

/-- An access that is memory throughout draws no free value. -/
theorem State.afterAccess_of_inMemory {s : State} {p : Word} {width : AccessWidth} (h : InMemory s.cfg p width) :
    s.afterAccess p width = s := by
  simp [State.afterAccess, h.touches]

/-- With neither a break nor an interrupt the step is the fetched instruction's (00_scope.md R8). -/
theorem step_eq_runFetched {s : State} (hb : s.breakDemanded = false) (hi : s.interruptTaken = false) :
    step s = s.sampled.runFetched exec := by
  simp [step, State.stepWith, hb, hi]

theorem State.runFetched_next {s : State} {run : Instr → State → Result} {r : Word × State} {i : Instr}
    (hf : s.fetch = .next r) (hd : decodeWord r.1 = .ok i) : s.runFetched run = run i r.2 := by
  rw [State.runFetched, hf, andThen_next, hd]

theorem State.runFetched_refused {s : State} {run : Instr → State → Result} {e : Refusal}
    (hf : s.fetch = .refused e) : s.runFetched run = .refused e := by
  rw [State.runFetched, hf, andThen_refused]

theorem State.runFetched_fault {s : State} {run : Instr → State → Result} {e : Fault}
    (hf : s.fetch = .fault e) : s.runFetched run = .fault e := by
  rw [State.runFetched, hf, andThen_fault]

/-- Settles O36: the fetch after the boundary in its four cases. -/
theorem stepRunsInstruction : Obligations.StepRunsInstruction := by
  intro s hb hi
  rw [step_eq_runFetched hb hi, ← s.sampled_cfg, ← s.sampled_stored]
  refine ⟨fun i ha hm hs hd => ?_, fun ha => ?_, fun ha hm => ?_, fun ha hm hs => ?_⟩
  · have hw := decodeWord_of_decode hd
    refine ⟨Instr.wellFormed_of_isMachine (decodeWord_isMachine hw), ?_⟩
    rw [← State.loadValue_word_of_inMemory hm] at hw
    rw [State.runFetched_next (State.fetch_next ha hm.allMapped hs) hw, State.afterAccess_of_inMemory hm]
  · exact State.runFetched_refused (State.fetch_misaligned ha)
  · exact State.runFetched_fault (State.fetch_unmapped ha hm)
  · exact State.runFetched_refused (State.fetch_stale ha hm hs)

end Sys2Proof.Machine
end

section
/-! PROOFS of the family 10_state.md: the register file, who writes the control registers, what is pending, the state
after reset, and the invariant that every step keeps. -/

namespace Sys2Proof.Machine

/-! ### Who writes each control register (10_state.md R38) -/

/-- `wrctl` writes to at most one control register, the one it names, and never to the debug mode bit. -/
theorem State.writeCtl_keeps {s t : State} {n : CtlNum} {v : Word} (h : s.writeCtl n v = .next t) :
    (n = 0 ∨ t.status = s.status) ∧ (n = 1 ∨ t.estatus = s.estatus) ∧ (n = 2 ∨ t.bstatus = s.bstatus) ∧
    ((n = 3 ∧ t.ienable = v) ∨ t.ienable = s.ienable) ∧ t.inDebug = s.inDebug := by
  rcases State.writeCtl_eq_next h with ⟨rfl, rfl⟩ | ⟨rfl, rfl⟩ | ⟨rfl, rfl⟩ | ⟨rfl, rfl⟩ | ⟨rfl, rfl⟩ <;> simp

/-- `eret` leaves every control register but `status` (46_other_control.md R251). -/
theorem State.exceptionReturn_keeps {s t : State} (h : s.exceptionReturn = .next t) :
    t.estatus = s.estatus ∧ t.bstatus = s.bstatus ∧ t.ienable = s.ienable ∧ t.inDebug = s.inDebug := by
  obtain ⟨-, rfl⟩ := State.exceptionReturn_eq_next h
  exact ⟨rfl, rfl, rfl, rfl⟩

/-- `bret` leaves every control register but `status` (46_other_control.md R253). -/
theorem State.breakReturn_keeps {s t : State} (h : s.breakReturn = .next t) :
    t.estatus = s.estatus ∧ t.bstatus = s.bstatus ∧ t.ienable = s.ienable := by
  obtain ⟨-, rfl⟩ := State.breakReturn_eq_next h
  exact ⟨rfl, rfl, rfl⟩

section Writers

variable {i : Instr} {s t : State}

/-- `estatus` is written by an exception and by `wrctl estatus` (10_state.md R32). -/
theorem ControlEffect.estatus_writers (h : ControlEffect i s t) (hne : t.estatus ≠ s.estatus) :
    i = .trap ∨ (∃ rA, i = .wrctl 1 rA) ∨ (isPrivileged i = true ∧ s.status.u = true) ∨ absentOn s.cfg i = true := by
  cases h with
  | kept same => exact absurd same.estatus hne
  | exception cause => exact cause.imp_right .inr
  | breakEntry _ _ result => exact absurd (by simp [result]) hne
  | exceptionReturn _ _ result => exact absurd (State.exceptionReturn_keeps result).1 hne
  | breakReturn _ _ _ result => exact absurd (State.breakReturn_keeps result).1 hne
  | writeCtl n rA u instr _ written result =>
    obtain ⟨-, hn | hkept, -⟩ := State.writeCtl_keeps written
    · exact .inr (.inl ⟨rA, hn ▸ instr⟩)
    · exact absurd (by simpa [result] using hkept) hne

/-- `bstatus` is written by `break` and by `wrctl bstatus` (10_state.md R33). -/
theorem ControlEffect.bstatus_writers (h : ControlEffect i s t) (hne : t.bstatus ≠ s.bstatus) :
    (∃ k, i = .brk k) ∨ ∃ rA, i = .wrctl 2 rA := by
  cases h with
  | kept same => exact absurd same.bstatus hne
  | exception _ result => exact absurd (by simp [result]) hne
  | breakEntry k instr => exact .inl ⟨k, instr⟩
  | exceptionReturn _ _ result => exact absurd (State.exceptionReturn_keeps result).2.1 hne
  | breakReturn _ _ _ result => exact absurd (State.breakReturn_keeps result).2.1 hne
  | writeCtl n rA u instr _ written result =>
    obtain ⟨-, -, hn | hkept, -⟩ := State.writeCtl_keeps written
    · exact .inr ⟨rA, hn ▸ instr⟩
    · exact absurd (by simpa [result] using hkept) hne

/-- `ienable` is written by `wrctl ienable` alone, outside user mode (10_state.md R34). -/
theorem ControlEffect.ienable_writers (h : ControlEffect i s t) (hne : t.ienable ≠ s.ienable) :
    ∃ rA, i = .wrctl 3 rA ∧ s.status.u = false ∧ t.ienable = s.readReg rA := by
  cases h with
  | kept same => exact absurd same.ienable hne
  | exception _ result => exact absurd (by simp [result]) hne
  | breakEntry _ _ result => exact absurd (by simp [result]) hne
  | exceptionReturn _ _ result => exact absurd (State.exceptionReturn_keeps result).2.2.1 hne
  | breakReturn _ _ _ result => exact absurd (State.breakReturn_keeps result).2.2 hne
  | writeCtl n rA u instr notUser written result =>
    obtain ⟨-, -, -, ⟨hn, hv⟩ | hkept, -⟩ := State.writeCtl_keeps written
    · exact ⟨rA, hn ▸ instr, notUser, by simpa [result] using hv⟩
    · exact absurd (by simpa [result] using hkept) hne

/-- The debug mode bit is written by `break` and `bret` (10_state.md R41). -/
theorem ControlEffect.inDebug_writers (h : ControlEffect i s t) (hne : t.inDebug ≠ s.inDebug) :
    (∃ k, i = .brk k) ∨ ∃ c, i = .bret c := by
  cases h with
  | kept same => exact absurd same.inDebug hne
  | exception _ result => exact absurd (by simp [result]) hne
  | breakEntry k instr => exact .inl ⟨k, instr⟩
  | exceptionReturn _ _ result => exact absurd (State.exceptionReturn_keeps result).2.2.2 hne
  | breakReturn c instr => exact .inr ⟨c, instr⟩
  | writeCtl n rA u _ _ written result =>
    obtain ⟨-, -, -, -, hkept⟩ := State.writeCtl_keeps written
    exact absurd (by simpa [result] using hkept) hne

/-- `status` is written by the entries, the returns and `wrctl status` (10_state.md R31). -/
theorem ControlEffect.status_writers (h : ControlEffect i s t) (hne : t.status ≠ s.status) :
    i = .trap ∨ (∃ k, i = .brk k) ∨ i = .eret ∨ (∃ c, i = .bret c) ∨ (∃ rA, i = .wrctl 0 rA) ∨
      (isPrivileged i = true ∧ s.status.u = true) ∨ absentOn s.cfg i = true := by
  cases h with
  | kept same => exact absurd same.status hne
  | exception cause => exact cause.imp_right fun c => .inr (.inr (.inr (.inr c)))
  | breakEntry k instr => exact .inr (.inl ⟨k, instr⟩)
  | exceptionReturn instr => exact .inr (.inr (.inl instr))
  | breakReturn c instr => exact .inr (.inr (.inr (.inl ⟨c, instr⟩)))
  | writeCtl n rA u instr _ written result =>
    obtain ⟨hn | hkept, -⟩ := State.writeCtl_keeps written
    · exact .inr (.inr (.inr (.inr (.inl ⟨rA, hn ▸ instr⟩))))
    · exact absurd (by simpa [result] using hkept) hne

end Writers

/-- Settles O35, by the six effects an instruction can have on the control registers. -/
theorem controlRegisterWriters : Obligations.ControlRegisterWriters := by
  intro i s t h
  have effect := exec_controlEffect h
  exact ⟨exec_cfg h, effect.estatus_writers, effect.bstatus_writers, effect.ienable_writers, effect.inDebug_writers,
    effect.status_writers⟩

/-! ### Every step keeps a sound state sound -/

/-- A potentially unimplemented instruction keeps soundness if its body does. -/
theorem State.Sound.unlessAbsent {s t : State} {absent : Bool} {body : Result} (hs : s.Sound)
    (h : s.unlessAbsent absent body = .next t) (hbody : body = .next t → t.Sound) : t.Sound := by
  rcases State.unlessAbsent_eq_next h with ⟨-, rfl⟩ | ⟨-, hb⟩
  · exact hs.exceptionEntry _
  · exact hbody hb

/-- A privileged instruction keeps soundness if its body does. -/
theorem State.Sound.privileged {s t : State} {body : Result} (hs : s.Sound) (h : s.privileged body = .next t)
    (hbody : body = .next t → t.Sound) : t.Sound := by
  rcases State.privileged_eq_next h with ⟨-, rfl⟩ | ⟨-, hb⟩
  · exact hs.exceptionEntry _
  · exact hbody hb

theorem State.Sound.custom {s t : State} {n : Byte} {xC xA xB : XReg} (hs : s.Sound)
    (h : execCustom n xC xA xB s = .next t) : t.Sound := by
  unfold execCustom at h
  split at h
  · obtain rfl := Host.Outcome.next.inj h
    exact (hs.customWrite xC _).advance
  · cases h

theorem State.Sound.fetch {s : State} {r : Word × State} (hs : s.Sound) (h : s.fetch = .next r) : r.2.Sound := by
  obtain ⟨-, -, -, rfl⟩ := State.fetch_eq_next h
  exact hs.afterAccess _ _

/-- Every instruction that answers keeps soundness, by the shared operation its meaning ends in. -/
theorem State.Sound.exec {i : Instr} {s t : State} (hs : s.Sound) (h : exec i s = .next t) : t.Sound := by
  cases i with
  | and | or | xor | nor | andi | ori | xori | andhi | orhi | xorhi | add | sub | addi | subi | mov | movhi | movi
  | movui | rol | ror | roli | sll | slli | sra | srl | srai | srli | cmpeq | cmpne | cmpge | cmpgeu | cmpgt | cmpgtu
  | cmple | cmpleu | cmplt | cmpltu | cmpeqi | cmpnei | cmpgei | cmpgeui | cmpgti | cmpgtui | cmplei | cmpleui | cmplti
  | cmpltui => exact hs.finish h
  | mul | muli | mulxss | mulxsu | mulxuu => exact hs.unlessAbsent h hs.finish
  | div | divu => exact hs.unlessAbsent h hs.divide
  | ldw | ldwio | ldb | ldbu | ldbio | ldbuio | ldh | ldhu | ldhio | ldhuio => exact hs.loadInto h
  | stw | stwio | stb | stbio | sth | sthio => exact hs.storeFrom h
  | bge | bgeu | bgt | bgtu | ble | bleu | blt | bltu | beq | bne => exact hs.branchIf h
  | br | jmp | ret => exact hs.jump h
  | call | callr => exact (hs.writeReg _ _).jump h
  | custom => exact hs.custom h
  | nop | sync => exact Host.Outcome.next.inj h ▸ hs.advance
  | flushp => exact Host.Outcome.next.inj h ▸ hs.flushPipeline.advance
  | movia => exact Host.Outcome.next.inj h ▸ (hs.writeReg _ _).advance.advance
  | flushd => exact Host.Outcome.next.inj h ▸ (hs.flushDataLine _).advance
  | flushi => exact Host.Outcome.next.inj h ▸ (hs.invalidateInstructionLine _).advance
  | initd => exact hs.privileged h fun hb => Host.Outcome.next.inj hb ▸ (hs.invalidateDataLine _).advance
  | initi => exact hs.privileged h fun hb => Host.Outcome.next.inj hb ▸ (hs.invalidateInstructionLine _).advance
  | rdctl =>
    refine hs.privileged h fun hb => ?_
    obtain ⟨r, hr, hf⟩ := andThen_eq_next hb
    exact (hs.readCtl hr).finish hf
  | wrctl =>
    refine hs.privileged h fun hb => ?_
    obtain ⟨u, hw, ht⟩ := andThen_eq_next hb
    exact Host.Outcome.next.inj ht ▸ (hs.writeCtl hw).advance
  | eret => exact hs.privileged h hs.exceptionReturn
  | bret => exact hs.privileged h hs.breakReturn
  | trap => exact Host.Outcome.next.inj h ▸ hs.exceptionEntry _
  | brk => exact Host.Outcome.next.inj h ▸ hs.breakEntry _

/-- Settles O43, by the four ways a step can answer. -/
theorem stepKeepsSound : Obligations.StepKeepsSound := by
  intro s t hs h
  rcases step_eq_next h with ⟨-, rfl⟩ | ⟨-, -, rfl⟩ | ⟨-, -, r, hr, ⟨i, -, hx⟩ | ⟨e, -, hx⟩⟩
  · exact hs.sampled.breakEntry _
  · exact hs.sampled.exceptionEntry _
  · exact (hs.sampled.fetch hr).exec hx
  · exact (hs.sampled.fetch hr).invalidWord hx

/-! ### The register file (10_state.md R21) -/

/-- A register write to `r0` changes no register. -/
theorem State.RegsAfter.sameRegs_of_zero {s t : State} {v : Word} (h : s.RegsAfter t 0 v) : s.SameRegs t := by
  intro q
  rw [h q, if_neg fun hq => hq.2 hq.1]

/-- An io load into `r0` that answers changes no register and makes its transfer on the bus. -/
theorem execLdwio_zero_transfers {s : State} {imm16 : Half} {rA : Reg}
    (ha : Aligned (s.effectiveAddr rA imm16) .word)
    (hm : AllMapped s.cfg (dataAddr s.cfg (s.effectiveAddr rA imm16)) .word)
    (hx : ¬ s.Mixes true (s.effectiveAddr rA imm16) .word) :
    ∃ t x, exec (.ldwio 0 imm16 rA) s = .next t ∧ s.SameRegs t ∧ t.ioLog = x :: s.ioLog := by
  obtain ⟨t, ht, -, hregs, -, -, -, -, -, -, -, hbus, -⟩ := State.load_finish_loads ha hm hx 0 wholeWord
  exact ⟨t, _, ht, hregs.sameRegs_of_zero, hbus.trans (if_pos (.inl rfl))⟩

/-- `call` leaves the address of the next word in `r31` (45_program_control.md R230). -/
theorem execCall_writes_ra (s : State) (imm26 : BitVec 26) :
    ∃ t, exec (.call imm26) s = .next t ∧ t.readReg 31 = s.pc + 4#32 := by
  obtain ⟨t, ht, -, hregs, -⟩ := State.writeReg_jump_transfers (s.callTarget_aligned imm26) 31 (s.pc + 4#32)
  exact ⟨t, ht, (hregs 31).trans (if_pos (by decide))⟩

/-- Settles O1. -/
theorem registerFile : Obligations.RegisterFile := by
  rintro s r q v imm16 rA addr rfl
  exact ⟨s.readReg_zero, s.writeReg_zero v, s.readReg_writeReg r q v, execLdwio_zero_transfers, execCall_writes_ra s⟩

/-! ### Pending interrupts (10_state.md R35, 60_exceptions.md R300) -/

/-- A bit of `ipending`: the input asserted and enabled. -/
theorem State.ipending_getLsbD (s : State) (n : Nat) :
    s.ipending.getLsbD n = (s.irq.getLsbD n && s.ienable.getLsbD n) := BitVec.getLsbD_and

/-- A word is not 0 exactly when one of its bits is 1. -/
theorem ne_zero_iff_exists_getLsbD {w : Nat} (v : BitVec w) : v ≠ 0#w ↔ ∃ k, k < w ∧ v.getLsbD k = true := by
  constructor
  · intro hv
    by_contra hall
    refine hv (BitVec.eq_of_getLsbD_eq fun k hk => ?_)
    simpa using fun hbit => hall ⟨k, hk, hbit⟩
  · rintro ⟨k, -, hbit⟩ rfl
    simp at hbit

theorem State.interruptRequest_iff (s : State) :
    s.interruptRequest = true ↔
      s.status.pie = true ∧ ∃ k, k < 32 ∧ s.irq.getLsbD k = true ∧ s.ienable.getLsbD k = true := by
  simp only [State.interruptRequest, Bool.and_eq_true, bne_iff_ne, ne_zero_iff_exists_getLsbD, State.ipending_getLsbD]

/-- Settles O37. -/
theorem interruptCondition : Obligations.InterruptCondition := by
  intro s n rA
  refine ⟨s.ipending_getLsbD n, fun hu rC => ?_, fun hu => ?_, s.interruptRequest_iff⟩
  · have hexec : exec (.rdctl rC 4) s = s.finish rC s.ipending := State.privileged_of_supervisor hu _
    exact hexec ▸ s.finish_writesOnly rC s.ipending
  · exact State.privileged_of_supervisor hu _

/-! ### What a step does to `ienable` (10_state.md R34) -/

/-- An invalid word that answers goes on at the next word or takes the exception (30_encoding.md R112). -/
theorem State.invalidWord_eq_next {s t : State} {w : Word} (h : s.invalidWord w = .next t) :
    t = s.advance ∨ t = s.exceptionEntry (s.pc + 4#32) := by
  unfold State.invalidWord at h
  split at h
  · cases h
  · exact .inl (Host.Outcome.next.inj h).symm
  · exact .inr (Host.Outcome.next.inj h).symm

theorem State.invalidWord_ienable {s t : State} {w : Word} (h : s.invalidWord w = .next t) :
    t.ienable = s.ienable := by
  rcases State.invalidWord_eq_next h with rfl | rfl
  · exact s.advance_ienable
  · exact s.exceptionEntry_ienable _

/-- Settles O47, by the four ways a step can answer. -/
theorem ienableWrittenByWrctlOnly : Obligations.IenableWrittenByWrctlOnly := by
  intro s t hj h hne
  obtain ⟨-, hregs, hctl, -⟩ := State.sampled_keeps_processor hj
  rw [← hctl.ienable] at hne
  rcases step_eq_next h with ⟨-, rfl⟩ | ⟨-, -, rfl⟩ | ⟨-, -, r, hr, hrun⟩
  · exact absurd (State.breakEntry_ienable _ _) hne
  · exact absurd (State.exceptionEntry_ienable _ _) hne
  · obtain ⟨-, -, -, hr2⟩ := State.fetch_eq_next hr
    rcases hrun with ⟨i, hd, hx⟩ | ⟨e, -, hx⟩
    · obtain ⟨rA, rfl, hu, hv⟩ := (exec_controlEffect hx).ienable_writers (by simpa [hr2] using hne)
      refine ⟨r, rA, hr, hd, ?_, ?_⟩
      · simpa [hr2, hctl.status] using hu
      · simpa [hr2, hregs rA] using hv
    · exact absurd (by simpa [hr2] using State.invalidWord_ienable hx) hne

/-! ### The state after reset (10_state.md R50) -/

/-- Settles O41. -/
theorem resetState : Obligations.ResetState :=
  fun _ => ⟨rfl, rfl, rfl, rfl, rfl, rfl, rfl, rfl⟩

/-- After reset memory, the stored words and the bytes accessed are empty and `U`, `EU` and `BU` are 0. -/
theorem State.resetOn_sound (c : Config) : (State.resetOn c).Sound where
  wf := Memory.nil_wf
  inside := List.forall_mem_nil _
  pcAligned := word_aligned c.resetWord
  noUserMode _ := ⟨rfl, rfl, rfl⟩
  storedAligned := List.forall_mem_nil _
  storedOnce := List.nodup_nil
  oneView := List.forall_mem_nil _

/-- Settles O42. -/
theorem resetSound : Obligations.ResetSound := ⟨State.resetOn_sound, State.resetOn_sound Config.reference⟩

end Sys2Proof.Machine
end

section
/-! PROOFS of the family 20_memory.md: the bytes of memory, the bytes a stored word answers with, what makes stored
code fit to be fetched, and the transfers on the bus. -/

namespace Sys2Proof.Machine

/-! ### The bytes of memory (20_memory.md R60) -/

/-- Settles O2. -/
theorem memoryReadAfterWrite : Obligations.MemoryReadAfterWrite :=
  fun _ a x b h => Memory.read_write h a x b

/-- Settles O3. -/
theorem memoryKeepsCanonicalForm : Obligations.MemoryKeepsCanonicalForm :=
  fun c _ a v b width l h => ⟨Memory.write_wf h a b, storeValue_wf h c a v width, externalWrites_wf c l h,
    fun hin => ⟨storeValue_inside hin a v width, externalWrites_inside l hin⟩⟩

/-! ### Accesses within a word (20_memory.md R64, R66) -/

/-- Two offsets added one after the other. -/
theorem add_ofNat_add (a : Word) (j i : Nat) :
    a + BitVec.ofNat 32 j + BitVec.ofNat 32 i = a + BitVec.ofNat 32 (j + i) := by
  rw [BitVec.add_assoc, BitVec.ofNat_add]

theorem wordOf_eq_append (p : Word) : wordOf p = p.extractLsb' 2 30 ++ 0#2 := by
  refine BitVec.eq_of_getLsbD_eq fun i hi => ?_
  rw [wordOf, BitVec.getLsbD_and, BitVec.getLsbD_append]
  interval_cases i <;> simp

theorem wordOf_toNat (p : Word) : (wordOf p).toNat = p.toNat - p.toNat % 4 := by
  have := p.isLt
  rw [wordOf_eq_append, toNat_append_add, toNat_field]
  simp only [BitVec.toNat_ofNat]
  omega

theorem dataAddr_toNat (c : Config) (a : Word) :
    (dataAddr c a).toNat = if c.bit31Bypass then a.toNat % 2 ^ 31 else a.toNat := by
  unfold dataAddr
  split
  · exact (BitVec.toNat_and a _).trans (Nat.and_two_pow_sub_one_eq_mod a.toNat 31)
  · rfl

theorem bypasses_eq (c : Config) (a : Word) : bypasses c a = (c.bit31Bypass && decide (2 ^ 31 ≤ a.toNat)) := by
  rw [bypasses, ← BitVec.msb_eq_decide a, BitVec.msb_eq_getLsbD_last]

/-- An access reaches its own address exactly if it does not bypass the cache by bit 31 (20_memory.md R82). -/
theorem dataAddr_eq_self_iff (c : Config) (a : Word) : dataAddr c a = a ↔ bypasses c a = false := by
  rw [← BitVec.toNat_inj, dataAddr_toNat, bypasses_eq]
  cases c.bit31Bypass <;> simp

/-- The address a data access reaches is aligned as the address is. -/
theorem Aligned.dataAddr {a : Word} {width : AccessWidth} (h : Aligned a width) (c : Config) :
    Aligned (dataAddr c a) width := by
  unfold Aligned at h ⊢
  rw [dataAddr_toNat]
  split
  · cases width <;> simp only [AccessWidth.bytes] at h ⊢ <;> omega
  · exact h

/-- The bytes of a word lie on one side of bit 31. -/
theorem bypasses_within_word {a : Word} (h : Aligned a .word) (c : Config) {j : Nat} (hj : j < 4) :
    bypasses c (a + BitVec.ofNat 32 j) = bypasses c a := by
  have hmod : a.toNat % 4 = 0 := h
  have hsum : (a + BitVec.ofNat 32 j).toNat = a.toNat + j := by
    rw [BitVec.toNat_add, BitVec.toNat_ofNat]
    omega
  rw [bypasses_eq, bypasses_eq, hsum, decide_eq_decide.mpr (by omega : 2 ^ 31 ≤ a.toNat + j ↔ 2 ^ 31 ≤ a.toNat)]

theorem AccessWidth.bytes_pos (width : AccessWidth) : 0 < width.bytes := by cases width <;> decide

/-- An aligned access lies within one word. -/
theorem Aligned.within_word {p : Word} {width : AccessWidth} (h : Aligned p width) :
    ∃ j, j + width.bytes ≤ 4 ∧ p = wordOf p + BitVec.ofNat 32 j := by
  refine ⟨p.toNat % 4, ?_, BitVec.eq_of_toNat_eq ?_⟩
  · unfold Aligned at h
    cases width <;> simp only [AccessWidth.bytes] at h ⊢ <;> omega
  · have := p.isLt
    rw [BitVec.toNat_add, wordOf_toNat, BitVec.toNat_ofNat]
    omega

/-- What lies within a word that is memory is memory. -/
theorem InMemory.within_word {c : Config} {a : Word} (h : InMemory c a .word) {j : Nat} {width : AccessWidth}
    (hj : j + width.bytes ≤ 4) : InMemory c (a + BitVec.ofNat 32 j) width := by
  intro i hi
  rw [add_ofNat_add]
  exact h (j + i) (by simp only [AccessWidth.bytes]; omega)

/-- Memory after a store that answers: the bytes of the value where it reaches memory, else as before. -/
theorem State.store_read {s t : State} {io : Bool} {addr v : Word} {width : AccessWidth} (hwf : s.mem.wf)
    (h : s.store io addr width v = .next t) (x : Word) :
    t.mem.read x =
      if (x - dataAddr s.cfg addr).toNat < width.bytes ∧ kindAt s.cfg x = some .memory then
        byteOf v (x - dataAddr s.cfg addr).toNat
      else s.mem.read x := by
  obtain ⟨-, -, -, rfl⟩ := State.store_eq_next h
  exact storeValue_read hwf s.cfg (dataAddr s.cfg addr) v x width

theorem State.store_cfg {s t : State} {io : Bool} {addr v : Word} {width : AccessWidth}
    (h : s.store io addr width v = .next t) : t.cfg = s.cfg := (State.store_sameControl h).cfg

/-- The record of the bytes accessed after a store that answers (20_memory.md R77). -/
theorem State.store_viewsAfter {s t : State} {io : Bool} {addr v : Word} {width : AccessWidth}
    (h : s.store io addr width v = .next t) : s.ViewsAfter t io addr width := by
  obtain ⟨-, -, -, rfl⟩ := State.store_eq_next h
  exact fun _ => State.mem_viewed (s := ({ s with mem := _ } : State).noteStore (io || bypasses s.cfg addr) _)

/-- A value stored to memory is there byte by byte, little-endian (20_memory.md R64). -/
theorem State.store_read_byte {s t : State} {io : Bool} {addr p v : Word} {width : AccessWidth} (hwf : s.mem.wf)
    (hp : dataAddr s.cfg addr = p) (hm : InMemory s.cfg p width) (h : s.store io addr width v = .next t) {k : Nat}
    (hk : k < width.bytes) : t.mem.read (p + BitVec.ofNat 32 k) = byteOf v k := by
  have hwidth : width.bytes ≤ 4 := by cases width <;> decide
  have offset : (p + BitVec.ofNat 32 k - p).toNat = k := by
    rw [BitVec.add_comm, BitVec.add_sub_cancel, BitVec.toNat_ofNat]
    omega
  rw [State.store_read hwf h, hp, offset, if_pos ⟨hk, hm k hk⟩]

/-! ### A stored word read back (20_memory.md R64, R65) -/

theorem State.loadValue_byte_of_inMemory {s : State} {p : Word} (h : InMemory s.cfg p .byte) :
    s.loadValue p .byte = (s.mem.read p).setWidth 32 := by
  have h0 := h 0 (by decide)
  rw [BitVec.add_zero] at h0
  rw [State.loadValue_byte, State.answeredByte, BitVec.add_zero, if_pos h0]

theorem State.loadValue_half_of_inMemory {s : State} {p : Word} (h : InMemory s.cfg p .half) :
    s.loadValue p .half = (s.mem.read (p + 1#32) ++ s.mem.read p).setWidth 32 := by
  have h0 := h 0 (by decide)
  rw [BitVec.add_zero] at h0
  rw [State.loadValue_half, State.answeredByte, State.answeredByte, BitVec.add_zero, if_pos h0,
    if_pos (h 1 (by decide))]

/-- Two neighbouring bytes of a word are a halfword of it. -/
theorem byteOf_append_byteOf (w : Word) (k : Nat) : byteOf w (k + 1) ++ byteOf w k = w.extractLsb' (8 * k) 16 :=
  BitVec.extractLsb'_append_extractLsb'_eq_extractLsb' (Nat.mul_succ 8 k)

/-- A byte of a zero-extended halfword is a byte of the halfword. -/
theorem byteOf_setWidth (half : Half) (k : Nat) : byteOf (half.setWidth 32) k = half.extractLsb' (8 * k) 8 := by
  apply BitVec.eq_of_toNat_eq
  rw [byteOf_toNat, BitVec.toNat_setWidth_of_le (by decide), BitVec.extractLsb'_toNat, Nat.shiftRight_eq_div_pow]

section ReadBack
variable {s t : State} {a w : Word} (ha : Aligned a .word) (hp : dataAddr s.cfg a = a)
  (hm : InMemory s.cfg a .word) (hwf : s.mem.wf) (h : s.store false a .word w = .next t) {k : Nat}
include ha hp h

/-- A plain store of a word leaves its bytes on the way through the cache: no plain access within it mixes
(20_memory.md R77). -/
theorem State.not_mixes_after_store {width : AccessWidth} (hk : k + width.bytes ≤ 4) :
    ¬ t.Mixes false (a + BitVec.ofNat 32 k) width := by
  have hk4 : k < 4 := Nat.lt_of_lt_of_le (Nat.lt_add_of_pos_right width.bytes_pos) hk
  have hway : bypasses s.cfg (a + BitVec.ofNat 32 k) = bypasses s.cfg a := bypasses_within_word ha s.cfg hk4
  have hpk : dataAddr s.cfg (a + BitVec.ofNat 32 k) = a + BitVec.ofNat 32 k :=
    (dataAddr_eq_self_iff _ _).mpr (hway.trans ((dataAddr_eq_self_iff _ _).mp hp))
  obtain ⟨-, -, hx, -⟩ := State.store_eq_next h
  unfold State.Mixes
  rw [State.store_cfg h, hpk, hway]
  rintro ⟨hcache, x, hxk, hmemory, hview⟩
  rcases (State.store_viewsAfter h _).mp hview with hview | ⟨-, hsame, -⟩
  · refine hx ⟨hcache, x, ?_, hmemory, hview⟩
    rw [hp]
    simp only [AccessWidth.bytes]
    bv_omega
  · exact Bool.not_ne_self _ hsame

include hm

/-- After a plain store of a word every aligned plain load within it answers, with what memory holds. -/
theorem State.load_after_store {width : AccessWidth} (hk : k + width.bytes ≤ 4)
    (hal : Aligned (a + BitVec.ofNat 32 k) width) :
    InMemory t.cfg (a + BitVec.ofNat 32 k) width ∧
      ∃ u, t.load false (a + BitVec.ofNat 32 k) width = .next (t.loadValue (a + BitVec.ofNat 32 k) width, u) := by
  have hk4 : k < 4 := Nat.lt_of_lt_of_le (Nat.lt_add_of_pos_right width.bytes_pos) hk
  have hmk : InMemory t.cfg (a + BitVec.ofNat 32 k) width := State.store_cfg h ▸ hm.within_word hk
  have hpk : dataAddr t.cfg (a + BitVec.ofNat 32 k) = a + BitVec.ofNat 32 k := by
    rw [State.store_cfg h, dataAddr_eq_self_iff, bypasses_within_word ha s.cfg hk4, ← dataAddr_eq_self_iff, hp]
  have hload := State.load_next hal (hpk.symm ▸ hmk.allMapped) (State.not_mixes_after_store ha hp h hk)
  rw [hpk] at hload
  exact ⟨hmk, _, hload⟩

include hwf

theorem State.load_byte_after_store (hk : k < 4) :
    ∃ u, t.load false (a + BitVec.ofNat 32 k) .byte = .next ((byteOf w k).setWidth 32, u) := by
  obtain ⟨hmk, u, hu⟩ := State.load_after_store ha hp hm h (width := .byte) hk (Nat.mod_one _)
  rw [State.loadValue_byte_of_inMemory hmk, State.store_read_byte hwf hp hm h hk] at hu
  exact ⟨u, hu⟩

theorem State.load_half_after_store (hk : k + 1 < 4) (heven : k % 2 = 0) :
    ∃ u, t.load false (a + BitVec.ofNat 32 k) .half = .next ((w.extractLsb' (8 * k) 16).setWidth 32, u) := by
  have hal : Aligned (a + BitVec.ofNat 32 k) .half := by
    simp only [Aligned, AccessWidth.bytes, BitVec.toNat_add, BitVec.toNat_ofNat] at ha ⊢
    omega
  obtain ⟨hmk, u, hu⟩ := State.load_after_store ha hp hm h (width := .half) hk hal
  rw [State.loadValue_half_of_inMemory hmk, add_ofNat_add, State.store_read_byte hwf hp hm h hk,
    State.store_read_byte hwf hp hm h (Nat.lt_of_succ_lt hk), byteOf_append_byteOf] at hu
  exact ⟨u, hu⟩

theorem State.load_word_after_store : ∃ u, t.load false a .word = .next (w, u) := by
  have hload := State.load_after_store ha hp hm h (k := 0) (width := .word) (Nat.le_refl 4)
  rw [BitVec.add_zero] at hload
  obtain ⟨hmk, u, hu⟩ := hload ha
  have byte {k : Nat} (hk : k < 4) := State.store_read_byte hwf hp hm h (k := k) hk
  have byte0 := byte (k := 0) (by decide)
  rw [BitVec.add_zero] at byte0
  rw [State.loadValue_word_of_inMemory hmk, byte0, byte (k := 1) (by decide), byte (k := 2) (by decide),
    byte (k := 3) (by decide), wordOfBytes_byteOf] at hu
  exact ⟨u, hu⟩

end ReadBack

/-- A fetch that answers from memory gets the word's four bytes, the first least significant (20_memory.md R65). -/
theorem State.fetch_bytes {t u : State} {x : Word} (h : t.fetch = .next (x, u)) (hm : InMemory t.cfg t.pc .word) :
    x = t.mem.read (t.pc + 3#32) ++ t.mem.read (t.pc + 2#32) ++ t.mem.read (t.pc + 1#32) ++ t.mem.read t.pc := by
  obtain ⟨-, -, -, hr⟩ := State.fetch_eq_next h
  obtain ⟨rfl, rfl⟩ := Prod.mk.inj hr
  exact State.loadValue_word_of_inMemory hm

/-- Settles O51. -/
theorem littleEndianMemory : Obligations.LittleEndianMemory := by
  intro s t a w hwf ha hp hm h
  have byte {k : Nat} (hk : k < 4) := State.store_read_byte hwf hp hm h (k := k) hk
  have loadByte {k : Nat} (hk : k < 4) := State.load_byte_after_store ha hp hm hwf h (k := k) hk
  have byte0 := byte (k := 0) (by decide)
  have loadByte0 := loadByte (k := 0) (by decide)
  have loadHalf0 := State.load_half_after_store ha hp hm hwf h (k := 0) (by decide) rfl
  rw [BitVec.add_zero] at byte0 loadByte0 loadHalf0
  refine ⟨byte0, byte (k := 1) (by decide), byte (k := 2) (by decide), byte (k := 3) (by decide), loadByte0,
    loadByte (k := 1) (by decide), loadByte (k := 2) (by decide), loadByte (k := 3) (by decide), loadHalf0,
    State.load_half_after_store ha hp hm hwf h (k := 2) (by decide) rfl, State.load_word_after_store ha hp hm hwf h,
    fun x u => State.fetch_bytes, fun half v hv => ?_⟩
  have hmh : InMemory s.cfg a .half := fun i hi => hm i (Nat.lt_trans hi (by decide))
  have byteHalf {k : Nat} (hk : k < 2) := State.store_read_byte hwf hp hmh hv (k := k) hk
  have half0 := byteHalf (k := 0) (by decide)
  rw [BitVec.add_zero] at half0
  exact ⟨half0.trans (byteOf_setWidth half 0), (byteHalf (k := 1) (by decide)).trans (byteOf_setWidth half 1)⟩

/-! ### Stored code made fit to be fetched (20_memory.md R88, R89) -/

/-- `r` is the one record of a store to its word. -/
def State.StoredAs (s : State) (r : StoredWord) : Prop := ∀ e, (e ∈ s.stored ∧ e.addr = r.addr) ↔ e = r

section StoredAs
variable {s t : State} {r : StoredWord}

theorem State.StoredAs.of_stored (h : s.StoredAs r) (hs : t.stored = s.stored) : t.StoredAs r := by
  unfold State.StoredAs
  rwa [hs]

/-- What marks every record without moving it marks the one record of a word. -/
theorem State.StoredAs.map (h : s.StoredAs r) {f : StoredWord → StoredWord} (hf : ∀ e, (f e).addr = e.addr)
    (hs : t.stored = s.stored.map f) : t.StoredAs (f r) := by
  intro e
  rw [hs, List.mem_map, hf]
  constructor
  · rintro ⟨⟨d, hd, rfl⟩, haddr⟩
    rw [(h d).mp ⟨hd, (hf d).symm.trans haddr⟩]
  · rintro rfl
    obtain ⟨hmem, -⟩ := (h r).mpr rfl
    exact ⟨⟨r, hmem, rfl⟩, hf r⟩

/-- After `flushd` of its line the word is written back (46_other_control.md R257). -/
theorem State.StoredAs.flushDataLine (h : s.StoredAs r) {p : Word} (hline : ∀ k, sameLine k r.addr p = true)
    (hnone : s.cfg.dcacheLine = none → r.writtenBack = true) :
    (s.flushDataLine p).StoredAs { r with writtenBack := true } := by
  unfold State.flushDataLine
  split
  · next hc => rw [← hnone hc]; exact h
  · next k hc =>
    have hr : r.afterDataFlush k p = { r with writtenBack := true } := if_pos (hline k)
    refine hr ▸ h.map (fun e => ?_) rfl
    unfold StoredWord.afterDataFlush
    split <;> rfl

/-- After `flushi` of its line a word that is written back is invalidated (46_other_control.md R259). -/
theorem State.StoredAs.invalidateInstructionLine (h : s.StoredAs r) {p : Word}
    (hline : ∀ k, sameLine k r.addr p = true) (hback : r.writtenBack = true)
    (hnone : s.cfg.icacheLine = none → r.invalidated = true) :
    (s.invalidateInstructionLine p).StoredAs { r with invalidated := true } := by
  unfold State.invalidateInstructionLine
  split
  · next hc => rw [← hnone hc]; exact h
  · next k hc =>
    have hr : r.afterInstructionFlush k p = { r with invalidated := true } := if_pos (by rw [hline k, hback]; rfl)
    refine hr ▸ h.map (fun e => ?_) rfl
    unfold StoredWord.afterInstructionFlush
    split <;> rfl

/-- After `flushp` a word written back and invalidated is recorded no more (46_other_control.md R262). -/
theorem State.StoredAs.flushPipeline (h : s.StoredAs r) (hback : r.writtenBack = true)
    (hinv : r.invalidated = true) : ∀ e ∈ s.flushPipeline.stored, e.addr ≠ r.addr := by
  intro e he haddr
  obtain ⟨hmem, hkept⟩ := List.mem_filter.mp he
  obtain rfl := (h e).mp ⟨hmem, haddr⟩
  simp [hback, hinv] at hkept

/-- The fetch of a recorded word is refused (20_memory.md R89). -/
theorem State.StoredAs.fetch_refused (h : s.StoredAs r) {a : Word} (hr : r.addr = a) (ha : a.toNat % 4 = 0)
    (hm : AllMapped s.cfg a .word) : ({ s with pc := a } : State).fetch = .refused (.staleFetch a) :=
  State.fetch_stale (s := { s with pc := a }) ha hm ⟨r, ((h r).mpr rfl).1, hr⟩

end StoredAs

/-- The word that holds a byte lies in the byte's cache line. -/
theorem sameLine_wordOf (k : Nat) (p : Word) : sameLine k (wordOf p) p = true := by
  rw [sameLine_eq, decide_eq_true_iff, wordOf_toNat, Nat.add_comm k 2, Nat.pow_add, ← Nat.div_div_eq_div_mul,
    ← Nat.div_div_eq_div_mul]
  congr 1
  omega

theorem sameLine_refl (k : Nat) (p : Word) : sameLine k p p = true := by simp [sameLine]

theorem exec_storeForm (io : Bool) (width : AccessWidth) (rB rA : Reg) (imm16 : Half) (s : State) :
    exec (storeForm io width rB imm16 rA) s = s.storeFrom io width rB imm16 rA := by
  cases io <;> cases width <;> rfl

/-- A byte of a word loaded from memory is memory's byte. -/
theorem State.loadValue_word_extract {s : State} {p : Word} (h : InMemory s.cfg p .word) {j : Nat} (hj : j < 4) :
    (s.loadValue p .word).extractLsb' (8 * j) 8 = s.mem.read (p + BitVec.ofNat 32 j) := by
  rw [State.loadValue_word_of_inMemory h]
  apply BitVec.eq_of_toNat_eq
  rw [toNat_field, wordOfBytes_toNat]
  interval_cases j <;> simp <;> omega

/-- The record that a store to the bus address `p` leaves of its word (20_memory.md R88, R89). -/
def State.storeRecord (s : State) (io : Bool) (addr p : Word) : StoredWord where
  addr := wordOf p
  writtenBack := s.cfg.dcacheLine.isNone || ((io || bypasses s.cfg addr) &&
    s.stored.all fun d => d.addr != wordOf p || d.writtenBack)
  invalidated := s.cfg.icacheLine.isNone

theorem State.store_stored {s t : State} {io : Bool} {addr v : Word} {width : AccessWidth}
    (h : s.store io addr width v = .next t) :
    t.stored = s.storeRecord io addr (dataAddr s.cfg addr) ::
      s.stored.filter (·.addr != wordOf (dataAddr s.cfg addr)) := by
  obtain ⟨-, -, -, rfl⟩ := State.store_eq_next h
  rfl

/-- After a store the word's only record is the store's. -/
theorem State.store_storedAs {s t : State} {io : Bool} {addr v : Word} {width : AccessWidth}
    (h : s.store io addr width v = .next t) : t.StoredAs (s.storeRecord io addr (dataAddr s.cfg addr)) := by
  intro e
  rw [State.store_stored h, List.mem_cons, List.mem_filter, bne_iff_ne]
  constructor
  · rintro ⟨rfl | ⟨-, hne⟩, haddr⟩
    · rfl
    · exact absurd haddr hne
  · rintro rfl
    exact ⟨.inl rfl, rfl⟩

/-- The sequence `flushd`, `flushi`, `flushp` for the one record of the word of `p`: the fetch is refused until the
last of them, which ends the record. -/
theorem State.StoredAs.flush_sequence {s : State} {r : StoredWord} (h : s.StoredAs r) {p : Word} {imm16 : Half}
    {rA rF : Reg} (hp : dataAddr s.cfg (s.effectiveAddr rA imm16) = p) (hr : r.addr = wordOf p)
    (hrF : s.readReg rF = wordOf p) (hback : s.cfg.dcacheLine = none → r.writtenBack = true)
    (hinv : s.cfg.icacheLine = none → r.invalidated = true) (hm : InMemory s.cfg (wordOf p) .word) :
    ∃ s2 s3 s4, exec (.flushd imm16 rA) s = .next s2 ∧ exec (.flushi rF) s2 = .next s3 ∧
      exec .flushp s3 = .next s4 ∧
      (∀ u, u = s ∨ u = s2 ∨ u = s3 →
        ({ u with pc := wordOf p } : State).fetch = .refused (.staleFetch (wordOf p))) ∧
      s4.cfg = s.cfg ∧ s4.mem = s.mem ∧ ∀ e ∈ s4.stored, e.addr ≠ wordOf p := by
  have hrF2 : (s.flushDataLine p).advance.readReg rF = wordOf p := by simpa using hrF
  have h2 := (h.flushDataLine (p := p) (fun k => hr ▸ sameLine_wordOf k p) hback).of_stored
    (State.advance_stored _)
  have h3 := (h2.invalidateInstructionLine (p := wordOf p) (fun k => hr ▸ sameLine_refl k _) rfl
    (by simpa using hinv)).of_stored (State.advance_stored _)
  refine ⟨(s.flushDataLine p).advance, ((s.flushDataLine p).advance.invalidateInstructionLine (wordOf p)).advance,
    _, ?_, ?_, rfl, ?_, by simp, by simp, hr ▸ h3.flushPipeline rfl rfl⟩
  · exact congrArg (fun q => Host.Outcome.next (s.flushDataLine q).advance) hp
  · exact congrArg (fun q => Host.Outcome.next ((s.flushDataLine p).advance.invalidateInstructionLine q).advance) hrF2
  · rintro u (rfl | rfl | rfl)
    · exact h.fetch_refused hr (wordOf_aligned p) hm.allMapped
    · exact h2.fetch_refused hr (wordOf_aligned p) (by simpa using hm.allMapped)
    · exact h3.fetch_refused hr (wordOf_aligned p) (by simpa using hm.allMapped)

/-- A store instruction that is aligned, in memory and mixes nothing: what the flush sequence and the fetch after it
need to know of it. -/
theorem exec_storeForm_next {s : State} {io : Bool} {width : AccessWidth} {rB rA : Reg} {imm16 : Half} {addr p : Word}
    (hwf : s.mem.wf) (haddr : s.effectiveAddr rA imm16 = addr) (hp : dataAddr s.cfg addr = p) (hal : Aligned addr width)
    (hm : InMemory s.cfg p width) (hx : ¬ s.Mixes io addr width) :
    ∃ t, exec (storeForm io width rB imm16 rA) s = .next t ∧ t.cfg = s.cfg ∧ s.SameRegs t ∧
      t.StoredAs (s.storeRecord io addr p) ∧ ∀ x, t.mem.read x =
        if (x - p).toNat < width.bytes ∧ kindAt s.cfg x = some .memory then byteOf (s.readReg rB) (x - p).toNat
        else s.mem.read x := by
  subst hp
  have hstore := State.store_next hal hm.allMapped hx (s.readReg rB)
  have hrecord := State.store_storedAs hstore
  have hread := State.store_read hwf hstore
  refine ⟨(s.afterStore io addr width (s.readReg rB)).advance, ?_, rfl, fun q => ?_, hrecord, hread⟩
  · rw [exec_storeForm, State.storeFrom, haddr, hstore, andThen_next]
  · exact State.readReg_congr (by simp [State.afterStore]) q

/-- Settles O30. -/
theorem writtenCodeNeedsFlushing : Obligations.WrittenCodeNeedsFlushing := by
  intro s io width rB rA rF imm16 addr p a hwf haddr hp ha hrF hal hm hx
  subst ha
  obtain ⟨j, hj, hpj⟩ := (hp ▸ hal.dataAddr s.cfg : Aligned p width).within_word
  obtain ⟨s1, h1, hcfg, hregs, hrecord, hmem⟩ :=
    exec_storeForm_next (rB := rB) hwf haddr.symm hp.symm hal (hpj ▸ hm.within_word hj) hx
  have hp1 : dataAddr s1.cfg (s1.effectiveAddr rA imm16) = p := by
    rw [State.effectiveAddr, hregs, hcfg, hp, haddr, sextImm]
  obtain ⟨s2, s3, s4, h2, h3, h4, hrefused, hcfg4, hmem4, hfresh⟩ :=
    hrecord.flush_sequence hp1 rfl ((hregs rF).trans hrF) (fun hc => by simp [State.storeRecord, ← hcfg, hc])
      (fun hc => by simp [State.storeRecord, ← hcfg, hc]) (hcfg ▸ hm)
  have hm4 : InMemory s4.cfg (wordOf p) .word := hcfg4 ▸ hcfg ▸ hm
  refine ⟨s1, s2, s3, s4, h1, h2, h3, h4, hrefused, _, _,
    State.fetch_next (s := { s4 with pc := wordOf p }) (wordOf_aligned p) hm4.allMapped hfresh, fun k hk => ?_⟩
  calc _ = s4.mem.read (wordOf p + BitVec.ofNat 32 k) :=
        State.loadValue_word_extract (s := { s4 with pc := wordOf p }) hm4 hk
    _ = _ := by
      rw [hmem4, hmem]
      simp only [hm k hk, and_true]
      rfl

/-! ### The transfers on the bus (20_memory.md R72, R76) -/

/-- Everything an instruction `i` that answers `t` from `s` can have done to the record of bus transfers. -/
inductive BusEffect (i : Instr) (s t : State) : Prop
  /-- It is no io form, and the record is as before. -/
  | silent (notIo : ioForm i = none) (same : t.ioLog = s.ioLog)
  /-- It is an io form and made its one transfer. -/
  | io (x : IoTransfer) (form : ioForm i = some (x.write, x.width)) (log : t.ioLog = x :: s.ioLog)
  /-- It is a plain access that bit 31 of its address made behave as io (20_memory.md R82). -/
  | bypass (x : IoTransfer) (notIo : ioForm i = none) (plain : isPlainAccess i = true)
      (hasBypass : s.cfg.bit31Bypass = true) (log : t.ioLog = x :: s.ioLog)

theorem State.finish_ioLog {s t : State} {r : Reg} {v : Word} (h : s.finish r v = .next t) : t.ioLog = s.ioLog := by
  rw [← Host.Outcome.next.inj h, State.advance_ioLog, State.writeReg_ioLog]

theorem State.jump_ioLog {s t : State} {p : Word} (h : s.jump p = .next t) : t.ioLog = s.ioLog := by
  obtain ⟨-, rfl⟩ := State.jump_eq_next h
  rfl

theorem State.branchIf_ioLog {s t : State} {rel : Relation} {rA rB : Reg} {imm16 : Half}
    (h : s.branchIf rel rA rB imm16 = .next t) : t.ioLog = s.ioLog := by
  unfold State.branchIf at h
  split at h
  · exact State.jump_ioLog h
  · rw [← Host.Outcome.next.inj h, State.advance_ioLog]

theorem State.divide_ioLog {s t : State} {rC : Reg} {q : Option Word} (h : s.divide rC q = .next t) :
    t.ioLog = s.ioLog := by
  unfold State.divide at h
  split at h
  · exact State.finish_ioLog h
  · exact (State.finish_ioLog h).trans s.drawn_ioLog

theorem State.readCtl_ioLog {s : State} {n : CtlNum} {r : Word × State} (h : s.readCtl n = .next r) :
    r.2.ioLog = s.ioLog := by
  rcases (State.readCtl_eq_next h).2 with h | h <;> rw [h]
  exact s.drawn_ioLog

theorem State.writeCtl_ioLog {s t : State} {n : CtlNum} {v : Word} (h : s.writeCtl n v = .next t) :
    t.ioLog = s.ioLog := by
  rcases State.writeCtl_eq_next h with ⟨-, rfl⟩ | ⟨-, rfl⟩ | ⟨-, rfl⟩ | ⟨-, rfl⟩ | ⟨-, rfl⟩ <;> rfl

theorem State.exceptionReturn_ioLog {s t : State} (h : s.exceptionReturn = .next t) : t.ioLog = s.ioLog := by
  rw [(State.exceptionReturn_eq_next h).2]

theorem State.breakReturn_ioLog {s t : State} (h : s.breakReturn = .next t) : t.ioLog = s.ioLog := by
  rw [(State.breakReturn_eq_next h).2]

theorem execCustom_ioLog {n : Byte} {xC xA xB : XReg} {s t : State} (h : execCustom n xC xA xB s = .next t) :
    t.ioLog = s.ioLog := by
  unfold execCustom at h
  split at h
  · rw [← Host.Outcome.next.inj h, State.advance_ioLog, State.customWrite_ioLog]
  · cases h

theorem State.invalidWord_ioLog {s t : State} {w : Word} (h : s.invalidWord w = .next t) : t.ioLog = s.ioLog := by
  rcases State.invalidWord_eq_next h with rfl | rfl
  · exact s.advance_ioLog
  · exact s.exceptionEntry_ioLog _

theorem State.fetch_ioLog {s : State} {r : Word × State} (h : s.fetch = .next r) : r.2.ioLog = s.ioLog := by
  obtain ⟨-, -, -, rfl⟩ := State.fetch_eq_next h
  rfl

@[simp] theorem State.sampled_ioLog (s : State) : s.sampled.ioLog = s.ioLog := s.sampled_same.2.2.2.2.1

/-- A potentially unimplemented instruction leaves the record as it was if its body does. -/
theorem State.unlessAbsent_ioLog {s t : State} {absent : Bool} {body : Result}
    (h : s.unlessAbsent absent body = .next t) (hbody : body = .next t → t.ioLog = s.ioLog) : t.ioLog = s.ioLog := by
  rcases State.unlessAbsent_eq_next h with ⟨-, rfl⟩ | ⟨-, hb⟩
  · exact s.exceptionEntry_ioLog _
  · exact hbody hb

/-- A privileged instruction leaves the record as it was if its body does. -/
theorem State.privileged_ioLog {s t : State} {body : Result} (h : s.privileged body = .next t)
    (hbody : body = .next t → t.ioLog = s.ioLog) : t.ioLog = s.ioLog := by
  rcases State.privileged_eq_next h with ⟨-, rfl⟩ | ⟨-, hb⟩
  · exact s.exceptionEntry_ioLog _
  · exact hbody hb

/-- From `s` to `t` one access of this direction and width is made; the record has its transfer exactly if it is
`onBus`. -/
def State.Accesses (s t : State) (write : Bool) (width : AccessWidth) (onBus : Bool) : Prop :=
  ∃ x : IoTransfer, x.write = write ∧ x.width = width ∧ t.ioLog = if onBus then x :: s.ioLog else s.ioLog

theorem State.loadInto_accesses {s t : State} {io : Bool} {width : AccessWidth} {extend : Word → Word} {rB : Reg}
    {imm16 : Half} {rA : Reg} (h : s.loadInto io width extend rB imm16 rA = .next t) :
    s.Accesses t false width (io || bypasses s.cfg (s.effectiveAddr rA imm16)) := by
  obtain ⟨r, hr, hf⟩ := andThen_eq_next h
  obtain ⟨-, -, -, rfl⟩ := State.load_eq_next hr
  exact ⟨_, rfl, rfl, State.finish_ioLog hf⟩

theorem State.storeFrom_accesses {s t : State} {io : Bool} {width : AccessWidth} {rB : Reg} {imm16 : Half} {rA : Reg}
    (h : s.storeFrom io width rB imm16 rA = .next t) :
    s.Accesses t true width (io || bypasses s.cfg (s.effectiveAddr rA imm16)) := by
  obtain ⟨u, hu, ht⟩ := andThen_eq_next h
  obtain ⟨-, -, -, rfl⟩ := State.store_eq_next hu
  obtain rfl := Host.Outcome.next.inj ht
  exact ⟨_, rfl, rfl, rfl⟩

/-- An io load or store makes its transfer whatever its address. -/
theorem BusEffect.of_io {i : Instr} {s t : State} {write : Bool} {width : AccessWidth}
    (form : ioForm i = some (write, width)) (h : s.Accesses t write width true) : BusEffect i s t := by
  obtain ⟨x, rfl, rfl, hlog⟩ := h
  exact .io x form hlog

/-- A plain load or store makes a transfer where bit 31 of its address bypasses the cache, else none. -/
theorem BusEffect.of_plain {i : Instr} {s t : State} {write : Bool} {width : AccessWidth} {addr : Word}
    (notIo : ioForm i = none) (plain : isPlainAccess i = true)
    (h : s.Accesses t write width (bypasses s.cfg addr)) : BusEffect i s t := by
  obtain ⟨x, -, -, hlog⟩ := h
  split at hlog
  · next hb => exact .bypass x notIo plain (Bool.and_elim_left hb) hlog
  · exact .silent notIo hlog

/-- The transfer of every instruction that answers, by the shared operation its meaning ends in. -/
theorem exec_busEffect {i : Instr} {s t : State} (h : exec i s = .next t) : BusEffect i s t := by
  cases i with
  | ldw | ldb | ldbu | ldh | ldhu => exact .of_plain rfl rfl (State.loadInto_accesses h)
  | stw | stb | sth => exact .of_plain rfl rfl (State.storeFrom_accesses h)
  | ldwio | ldbio | ldbuio | ldhio | ldhuio => exact .of_io rfl (State.loadInto_accesses h)
  | stwio | stbio | sthio => exact .of_io rfl (State.storeFrom_accesses h)
  | and | or | xor | nor | andi | ori | xori | andhi | orhi | xorhi | add | sub | addi | subi | mov | movhi | movi
  | movui | rol | ror | roli | sll | slli | sra | srl | srai | srli | cmpeq | cmpne | cmpge | cmpgeu | cmpgt | cmpgtu
  | cmple | cmpleu | cmplt | cmpltu | cmpeqi | cmpnei | cmpgei | cmpgeui | cmpgti | cmpgtui | cmplei | cmpleui | cmplti
  | cmpltui => exact .silent rfl (State.finish_ioLog h)
  | mul | muli | mulxss | mulxsu | mulxuu => exact .silent rfl (State.unlessAbsent_ioLog h State.finish_ioLog)
  | div | divu => exact .silent rfl (State.unlessAbsent_ioLog h State.divide_ioLog)
  | bge | bgeu | bgt | bgtu | ble | bleu | blt | bltu | beq | bne => exact .silent rfl (State.branchIf_ioLog h)
  | br | jmp | ret => exact .silent rfl (State.jump_ioLog h)
  | call | callr => exact .silent rfl ((State.jump_ioLog h).trans (State.writeReg_ioLog ..))
  | custom => exact .silent rfl (execCustom_ioLog h)
  | nop | sync | flushp | movia | flushd | flushi | trap | brk =>
    obtain rfl := Host.Outcome.next.inj h
    exact .silent rfl (by simp)
  | initd | initi =>
    refine .silent rfl (State.privileged_ioLog h fun hb => ?_)
    obtain rfl := Host.Outcome.next.inj hb
    simp
  | rdctl =>
    refine .silent rfl (State.privileged_ioLog h fun hb => ?_)
    obtain ⟨r, hr, hf⟩ := andThen_eq_next hb
    exact (State.finish_ioLog hf).trans (State.readCtl_ioLog hr)
  | wrctl =>
    refine .silent rfl (State.privileged_ioLog h fun hb => ?_)
    obtain ⟨u, hw, ht⟩ := andThen_eq_next hb
    obtain rfl := Host.Outcome.next.inj ht
    exact u.advance_ioLog.trans (State.writeCtl_ioLog hw)
  | eret => exact .silent rfl (State.privileged_ioLog h State.exceptionReturn_ioLog)
  | bret => exact .silent rfl (State.privileged_ioLog h State.breakReturn_ioLog)

/-- At most one transfer is added to the record. -/
theorem BusEffect.one_at_most {i : Instr} {s t : State} (h : BusEffect i s t) :
    t.ioLog = s.ioLog ∨ ∃ x, t.ioLog = x :: s.ioLog := by
  cases h with
  | silent _ same => exact .inl same
  | io x _ log | bypass x _ _ _ log => exact .inr ⟨x, log⟩

/-- An io form adds exactly one transfer, of its direction and width. -/
theorem BusEffect.one_of_ioForm {i : Instr} {s t : State} (h : BusEffect i s t) {write : Bool} {width : AccessWidth}
    (hi : ioForm i = some (write, width)) : ∃ x, t.ioLog = x :: s.ioLog ∧ x.write = write ∧ x.width = width := by
  cases h with
  | silent notIo | bypass _ notIo => rw [notIo] at hi; cases hi
  | io x form log =>
    rw [form] at hi
    cases hi
    exact ⟨x, log, rfl, rfl⟩

/-- What is neither an io form nor a plain access that may bypass the cache adds no transfer. -/
theorem BusEffect.none_of_not_ioForm {i : Instr} {s t : State} (h : BusEffect i s t) (hi : ioForm i = none)
    (hp : s.cfg.bit31Bypass = false ∨ isPlainAccess i = false) : t.ioLog = s.ioLog := by
  cases h with
  | silent _ same => exact same
  | io _ form => rw [form] at hi; cases hi
  | bypass _ _ plain hasBypass => simp [plain, hasBypass] at hp

/-- Settles O55, by the four ways a step can answer. -/
theorem busTransfersInOrder : Obligations.BusTransfersInOrder := by
  intro s t h
  rcases step_eq_next h with ⟨hb, rfl⟩ | ⟨-, hi, rfl⟩ | ⟨hb, hi, r, hr, hrun⟩
  · have same : (s.sampled.breakEntry (s.sampled.pc + 4#32)).ioLog = s.ioLog := by simp
    exact ⟨.inl same, fun _ => same, fun _ hb' => by simp [hb] at hb'⟩
  · have same : (s.sampled.exceptionEntry (s.sampled.pc + 4#32)).ioLog = s.ioLog := by simp
    exact ⟨.inl same, fun _ => same, fun _ _ hi' => by simp [hi] at hi'⟩
  · have hlog : r.2.ioLog = s.ioLog := (State.fetch_ioLog hr).trans s.sampled_ioLog
    have hcfg : r.2.cfg = s.cfg := (State.fetch_cfg hr).trans s.sampled_cfg
    rw [← hlog, ← hcfg]
    have noEntry : ¬ (s.breakDemanded = true ∨ s.interruptTaken = true) := by simp [hb, hi]
    rcases hrun with ⟨i, hd, hx⟩ | ⟨e, hd, hx⟩
    · have effect := exec_busEffect hx
      refine ⟨effect.one_at_most, fun hc => absurd hc noEntry, fun r' _ _ hr' => ?_⟩
      obtain rfl := Host.Outcome.next.inj (hr.symm.trans hr')
      refine ⟨fun e he => by simp [hd] at he, fun j hj => ?_⟩
      obtain rfl := Except.ok.inj (hd.symm.trans hj)
      exact ⟨fun _ _ => effect.one_of_ioForm, effect.none_of_not_ioForm⟩
    · have same := State.invalidWord_ioLog hx
      refine ⟨.inl same, fun _ => same, fun r' _ _ hr' => ?_⟩
      obtain rfl := Host.Outcome.next.inj (hr.symm.trans hr')
      exact ⟨fun _ _ => same, fun j hj => by simp [hd] at hj⟩

end Sys2Proof.Machine
end

section
/-! PROOFS of the family 30_encoding.md: the decoder and the encoder undo each other, pseudo-instructions and their
expansions, the halves of an address, and a step over a word that is no instruction. -/

namespace Sys2Proof

/-! ### When a word is the one with given fields (30_encoding.md R101 to R103) -/

theorem iWord_eq_iff {a b : Reg} {imm16 : Half} {op : BitVec 6} {w : Word} :
    iWord a b imm16 op = w ↔ fieldA w = a ∧ fieldB w = b ∧ fieldImm16 w = imm16 ∧ (fieldOp w).toNat = op.toNat := by
  constructor
  · rintro rfl
    simp
  · rintro ⟨rfl, rfl, rfl, hop⟩
    rw [← BitVec.eq_of_toNat_eq hop, iWord_fields]

theorem rWord_eq_iff {a b c : Reg} {opx : BitVec 6} {imm5 : BitVec 5} {w : Word} (hop : fieldOp w = 0x3A#6) :
    rWord a b c opx imm5 = w ↔
      fieldA w = a ∧ fieldB w = b ∧ fieldC w = c ∧ (fieldOpx w).toNat = opx.toNat ∧ fieldImm5 w = imm5 := by
  constructor
  · rintro rfl
    simp
  · rintro ⟨rfl, rfl, rfl, hopx, rfl⟩
    rw [← BitVec.eq_of_toNat_eq hopx, rWord_fields hop]

theorem jWord_eq_iff {imm26 : BitVec 26} {op : BitVec 6} {w : Word} :
    jWord imm26 op = w ↔ fieldImm26 w = imm26 ∧ (fieldOp w).toNat = op.toNat := by
  constructor
  · rintro rfl
    simp
  · rintro ⟨rfl, hop⟩
    rw [← BitVec.eq_of_toNat_eq hop, jWord_fields]

/-! ### The encoding of what was decoded (30_encoding.md R110, R111) -/

theorem encode_of_strictly {ok : Bool} {w : Word} {i j : Instr} (h : strictly ok w i = .ok j)
    (hw : ok = true → encode i = [w]) : encode j = [w] := by
  obtain ⟨hok, rfl⟩ := strictly_eq_ok h
  exact hw hok

/-- Each R-type row takes its operands from the fields that its strict check leaves free. -/
theorem encode_of_decodeR {w : Word} {i : Instr} (hop : fieldOp w = 0x3A#6) (h : decodeR w = .ok i) :
    encode i = [w] := by
  unfold decodeR at h
  split at h
  case h_41 => cases h
  all_goals
    next hopx =>
    refine encode_of_strictly h fun hok => ?_
    simp only [Bool.and_eq_true, beq_iff_eq] at hok
    simp [encode, rWord_eq_iff hop, hopx, hok]

/-- The row of `call`, that of `custom`, the R-type, the words of no row, the three rows of the I-type with a
fixed field, and the other rows of the I-type. -/
theorem encode_of_decodeWord {w : Word} {i : Instr} (h : decodeWord w = .ok i) : encode i = [w] := by
  unfold decodeWord at h
  split at h
  case h_1 hop => cases h; simp [encode, jWord_eq_iff, hop]
  case h_34 hop => cases h; rw [encode, customWord_fields (BitVec.eq_of_toNat_eq hop)]
  case h_40 hop => exact encode_of_decodeR (BitVec.eq_of_toNat_eq hop) h
  case h_43 => cases h
  case h_5 | h_35 | h_41 =>
    next hop =>
    refine encode_of_strictly h fun hok => ?_
    simp only [Bool.and_eq_true, beq_iff_eq] at hok
    simp [encode, iWord_eq_iff, hop, hok]
  all_goals
    next hop =>
    cases h
    simp [encode, iWord_eq_iff, hop]

/-- Settles O53. -/
theorem encodeOfDecode : Obligations.EncodeOfDecode := fun _ _ h =>
  have hi := decodeWord_isMachine h
  ⟨hi, Instr.wellFormed_of_isMachine hi, encode_of_decodeWord h⟩

/-! ### The decoding of what was encoded (30_encoding.md R108, R109) -/

theorem decodeWord_rWord (a b c : Reg) (opx : BitVec 6) (imm5 : BitVec 5) :
    decodeWord (rWord a b c opx imm5) = decodeR (rWord a b c opx imm5) := by
  simp [decodeWord]

/-- A machine instruction has one word, found in the decoder's table by `OP`, or by `OPX` for the R-type. -/
theorem decodeWord_of_encode {i : Instr} (h : i.isMachine = true) : ∃ w, encode i = [w] ∧ decodeWord w = .ok i := by
  cases i with
  | mov | movhi | movi | movui | movia | nop | subi | cmpgt | cmpgtu | cmple | cmpleu | cmpgti | cmpgtui | cmplei
  | cmpleui | bgt | bgtu | ble | bleu => cases h
  | call | custom | ldbu | addi | stb | br | ldb | cmpgei | ldhu | andi | sth | bge | ldh | cmplti | ori | stw | blt
  | ldw | cmpnei | xori | bne | cmpeqi | ldbuio | muli | stbio | beq | ldbio | cmpgeui | ldhuio | andhi | sthio | bgeu
  | ldhio | cmpltui | initd | orhi | stwio | bltu | ldwio | flushd | xorhi => exact ⟨_, rfl, by simp [decodeWord]⟩
  | _ => exact ⟨_, rfl, by simp [decodeWord_rWord, decodeR]⟩

theorem encodeBytes_of_encode {i : Instr} {w : Word} (h : encode i = [w]) : encodeBytes i = bytesOf w := by
  rw [encodeBytes, h, List.flatMap_singleton]

/-- Settles O52. -/
theorem decodeOfEncode : Obligations.DecodeOfEncode := by
  intro i rest hi
  obtain ⟨w, hw, hd⟩ := decodeWord_of_encode hi
  rw [encodeBytes_of_encode hw, decode_bytesOf, hd]
  exact ⟨rfl, rfl⟩

/-- Settles O54. -/
theorem decodeWords : Obligations.DecodeWords := by
  unfold Obligations.DecodeWords
  decide

/-! ### The halves of an address (30_encoding.md R119) -/

theorem lo_toNat (v : Word) : (lo v).toNat = v.toNat % 2 ^ 16 := by
  rw [lo, toNat_field, pow_zero, Nat.div_one]

theorem hi_toNat (v : Word) : (hi v).toNat = v.toNat / 2 ^ 16 := by
  have := v.isLt
  rw [hi, toNat_field]
  omega

theorem hiadj_toNat (v : Word) : (hiadj v).toNat = (v.toNat / 2 ^ 16 + v.toNat / 2 ^ 15 % 2) % 2 ^ 16 := by
  rw [hiadj, BitVec.toNat_add, BitVec.toNat_setWidth, toNat_field, toNat_field]
  omega

/-- The sign of the lower half is the bit that `%hiadj` adds. -/
theorem lo_sign (v : Word) : (lo v).toNat / 2 ^ 15 = v.toNat / 2 ^ 15 % 2 := by
  rw [lo_toNat]
  omega

theorem highHalf_toNat (h : Half) : (h ++ 0#16 : BitVec 32).toNat = h.toNat * 2 ^ 16 :=
  (toNat_append_add h 0#16).trans (Nat.add_zero _)

/-- Sign extension puts `0xFFFF` above a halfword whose bit 15 is set. -/
theorem signExtend_toNat (h : Half) : (h.signExtend 32).toNat = h.toNat + h.toNat / 2 ^ 15 * (2 ^ 32 - 2 ^ 16) := by
  have := h.isLt
  rw [BitVec.toNat_signExtend, BitVec.toNat_setWidth, BitVec.msb_eq_decide]
  simp only [decide_eq_true_eq]
  split <;> omega

theorem hiadj_add_lo (v : Word) : (hiadj v ++ 0#16 : BitVec 32) + (lo v).signExtend 32 = v := by
  have := v.isLt
  apply BitVec.eq_of_toNat_eq
  rw [BitVec.toNat_add, highHalf_toNat, hiadj_toNat, signExtend_toNat, lo_sign, lo_toNat]
  omega

theorem hi_or_lo (v : Word) : ((hi v ++ 0#16 : BitVec 32) ||| (lo v).setWidth 32) = v := by
  have hlt := (lo v).isLt
  apply BitVec.eq_of_toNat_eq
  calc ((hi v ++ 0#16 : BitVec 32) ||| (lo v).setWidth 32).toNat
      = (hi v).toNat <<< 16 ||| (lo v).toNat := by
        rw [BitVec.toNat_or, highHalf_toNat, Nat.shiftLeft_eq, BitVec.toNat_setWidth, Nat.mod_eq_of_lt (by omega)]
    _ = (hi v).toNat * 2 ^ 16 + (lo v).toNat := by rw [← Nat.shiftLeft_add_eq_or_of_lt hlt, Nat.shiftLeft_eq]
    _ = v.toNat := by
        rw [hi_toNat, lo_toNat]
        omega

/-- Settles O50. -/
theorem addressSplitting : Obligations.AddressSplitting := fun v =>
  ⟨lo_toNat v, hi_toNat v, hiadj_toNat v, hiadj_add_lo v, hi_or_lo v⟩

/-! ### Expansions (30_encoding.md R120) -/

theorem expansion_of_isMachine {i : Instr} (h : i.isMachine = true) : expansion i = [i] := by
  cases i with
  | mov | movhi | movi | movui | movia | nop | subi | cmpgt | cmpgtu | cmple | cmpleu | cmpgti | cmpgtui | cmplei
  | cmpleui | bgt | bgtu | ble | bleu => cases h
  | _ => rfl

/-- Only `movia` expands to more than one instruction. -/
theorem isMachine_of_mem_expansion {i j : Instr} (hj : j ∈ expansion i) : j.isMachine = true := by
  cases i with
  | movia => rcases List.mem_pair.mp hj with rfl | rfl <;> rfl
  | _ => exact List.mem_singleton.mp hj ▸ rfl

theorem encode_eq_flatMap_expansion (i : Instr) : encode i = (expansion i).flatMap encode := by
  cases i <;> rfl

/-- Settles O49. -/
theorem pseudoInstructionsAreTheirExpansions : Obligations.PseudoInstructionsAreTheirExpansions := by
  intro i _
  refine ⟨encode_eq_flatMap_expansion i, fun j hj => ?_, fun hi => ⟨expansion_of_isMachine hi, ?_⟩⟩
  · have hm := isMachine_of_mem_expansion hj
    exact ⟨hm, Instr.wellFormed_of_isMachine hm⟩
  · obtain ⟨w, hw, -⟩ := decodeWord_of_encode hi
    rw [hw, List.length_singleton]

end Sys2Proof

namespace Sys2Proof.Machine

/-! ### Running an expansion -/

@[simp] theorem runAll_singleton (i : Instr) (s : State) : runAll [i] s = exec i s := by
  rw [runAll]
  cases exec i s <;> rfl

/-- A pseudo-instruction of one word runs as expanded when it has the meaning of that one instruction. -/
theorem exec_eq_runAll {i j : Instr} {s : State} (he : expansion i = [j]) (h : exec i s = exec j s) :
    exec i s = runAll (expansion i) s := by
  rw [he, runAll_singleton, h]

theorem State.advance_writeReg (s : State) (r : Reg) (v : Word) :
    s.advance.writeReg r v = (s.writeReg r v).advance := by
  unfold State.writeReg
  split <;> rfl

theorem State.writeReg_writeReg (s : State) (r : Reg) (v w : Word) :
    (s.writeReg r v).writeReg r w = s.writeReg r w := by
  unfold State.writeReg
  split
  · rfl
  · simp

/-- Two instructions that write one register in turn leave there what the second writes. -/
theorem State.writeReg_advance_finish (s : State) (r : Reg) (v w : Word) :
    (s.writeReg r v).advance.finish r w = .next (s.writeReg r w).advance.advance := by
  rw [State.finish, State.advance_writeReg, State.writeReg_writeReg]

/-! ### The immediates of the expansions (30_encoding.md R120) -/

/-- `subi` adds the negation, which the range of its operand keeps within the field. -/
theorem sub_ofInt_eq_add_sextImm (a : Word) {k : Int} (hlo : -32767 ≤ k) (hhi : k ≤ 32768) :
    a - BitVec.ofInt 32 k = a + sextImm (BitVec.ofInt 16 (-k)) := by
  have hk : (BitVec.ofInt 16 (-k)).toInt = -k := by
    rw [BitVec.toInt_ofInt, Int.bmod_eq_of_le (by omega) (by omega)]
  rw [sextImm_eq_ofInt, hk, BitVec.ofInt_neg, BitVec.sub_eq_add_neg]

theorem sextImm_succ_toInt {imm : Half} (h : imm ≠ 0x7FFF#16) :
    (sextImm (imm + 1)).toInt = (sextImm imm).toInt + 1 := by
  have := imm.isLt
  have hne : imm.toNat ≠ 0x7FFF := fun e => h (BitVec.eq_of_toNat_eq e)
  have hone : (1 : Half).toNat = 1 := rfl
  rw [sextImm_toInt, sextImm_toInt, BitVec.toInt_eq_toNat_cond, BitVec.toInt_eq_toNat_cond, BitVec.toNat_add, hone]
  omega

theorem zextImm_succ_toNat {imm : Half} (h : imm ≠ 0xFFFF#16) :
    (zextImm (imm + 1)).toNat = (zextImm imm).toNat + 1 := by
  have := imm.isLt
  have hne : imm.toNat ≠ 0xFFFF := fun e => h (BitVec.eq_of_toNat_eq e)
  have hone : (1 : Half).toNat = 1 := rfl
  rw [zextImm_toNat, zextImm_toNat, BitVec.toNat_add, hone]
  omega

theorem relationHolds_gt_sextImm (a : Word) {imm : Half} (h : imm ≠ 0x7FFF#16) :
    relationHolds .gt a (sextImm imm) = relationHolds .ge a (sextImm (imm + 1)) := by
  simp only [relationHolds, sextImm_succ_toInt h, Int.add_one_le_iff]

theorem relationHolds_le_sextImm (a : Word) {imm : Half} (h : imm ≠ 0x7FFF#16) :
    relationHolds .le a (sextImm imm) = relationHolds .lt a (sextImm (imm + 1)) := by
  simp only [relationHolds, sextImm_succ_toInt h, Int.lt_add_one_iff]

theorem relationHolds_gtu_zextImm (a : Word) {imm : Half} (h : imm ≠ 0xFFFF#16) :
    relationHolds .gtu a (zextImm imm) = relationHolds .geu a (zextImm (imm + 1)) := by
  simp only [relationHolds, zextImm_succ_toNat h, Nat.add_one_le_iff]

theorem relationHolds_leu_zextImm (a : Word) {imm : Half} (h : imm ≠ 0xFFFF#16) :
    relationHolds .leu a (zextImm imm) = relationHolds .ltu a (zextImm (imm + 1)) := by
  simp only [relationHolds, zextImm_succ_toNat h, Nat.lt_add_one_iff]

theorem State.compareInto_congr {s : State} {r : Reg} {rel rel' : Relation} {a b b' : Word}
    (h : relationHolds rel a b = relationHolds rel' a b') : s.compareInto r rel a b = s.compareInto r rel' a b' := by
  rw [State.compareInto, State.compareInto, h]

/-! ### Pseudo-instructions (42_move.md R179) -/

/-- The two instructions of `movia`: the first leaves the adjusted upper half, to which the second adds the lower
half; in `r0` both sums are lost. -/
theorem execMovia_eq_runAll (rB : Reg) (label : Word) (s : State) :
    execMovia rB label s = runAll [.orhi rB 0 (hiadj label), .addi rB rB (lo label)] s := by
  have hfirst : exec (.orhi rB 0 (hiadj label)) s = s.finish rB (highImm (hiadj label)) :=
    congrArg (s.finish rB) BitVec.zero_or
  have hsum : highImm (hiadj label) + sextImm (lo label) = label := hiadj_add_lo label
  rw [runAll, hfirst, State.finish, andThen_next, runAll_singleton, exec, execAddi, State.writeReg_advance_finish,
    execMovia]
  by_cases hr : rB = 0
  · simp [hr]
  · simp [State.readReg_writeReg, hr, hsum]

/-- Settles O48: a branch or a comparison of registers is the converse relation of the operands exchanged, one
with an immediate is the relation to its successor, and the moves start from `r0`. -/
theorem pseudoInstructionsRunAsExpanded : Obligations.PseudoInstructionsRunAsExpanded := by
  intro i s hi hwf
  cases i with
  | cmpgt | cmpgtu | cmple | cmpleu | bgt | bgtu | ble | bleu | nop => exact exec_eq_runAll rfl rfl
  | mov rC rA => exact exec_eq_runAll rfl (congrArg (s.finish rC) (BitVec.add_zero _).symm)
  | movhi rB | movui rB => exact exec_eq_runAll rfl (congrArg (s.finish rB) BitVec.zero_or.symm)
  | movi rB => exact exec_eq_runAll rfl (congrArg (s.finish rB) (BitVec.zero_add _).symm)
  | movia rB label => exact execMovia_eq_runAll rB label s
  | subi rB rA k =>
    obtain ⟨hlo, hhi⟩ : -32767 ≤ k ∧ k ≤ 32768 := by simpa [Instr.wellFormed] using hwf
    exact exec_eq_runAll rfl (congrArg (s.finish rB) (sub_ofInt_eq_add_sextImm _ hlo hhi))
  | cmpgti => exact exec_eq_runAll rfl (State.compareInto_congr (relationHolds_gt_sextImm _ (bne_iff_ne.mp hwf)))
  | cmplei => exact exec_eq_runAll rfl (State.compareInto_congr (relationHolds_le_sextImm _ (bne_iff_ne.mp hwf)))
  | cmpgtui => exact exec_eq_runAll rfl (State.compareInto_congr (relationHolds_gtu_zextImm _ (bne_iff_ne.mp hwf)))
  | cmpleui => exact exec_eq_runAll rfl (State.compareInto_congr (relationHolds_leu_zextImm _ (bne_iff_ne.mp hwf)))
  | _ => cases hi

/-! ### A step over a word that is no instruction (30_encoding.md R112) -/

theorem State.runFetched_invalid {s : State} {run : Instr → State → Result} {r : Word × State} {e : Invalid}
    (hf : s.fetch = .next r) (hd : decodeWord r.1 = .error e) : s.runFetched run = r.2.invalidWord r.1 := by
  rw [State.runFetched, hf, andThen_next, hd]

/-- A fetch from memory gets the word's four bytes and changes nothing (20_memory.md R65). -/
theorem State.fetch_of_inMemory {s : State} (ha : s.pc.toNat % 4 = 0) (hm : InMemory s.cfg s.pc .word)
    (hs : ∀ e ∈ s.stored, e.addr ≠ s.pc) :
    s.fetch = .next (wordOfBytes (s.mem.read s.pc) (s.mem.read (s.pc + 1#32)) (s.mem.read (s.pc + 2#32))
      (s.mem.read (s.pc + 3#32)), s) := by
  rw [State.fetch_next ha hm.allMapped hs, State.loadValue_word_of_inMemory hm, State.afterAccess_of_inMemory hm]

theorem State.invalidWord_fault {s : State} (h : s.cfg.invalidInsn = .fault) (w : Word) :
    s.invalidWord w = .fault (.invalidInstruction w) := by rw [State.invalidWord, h]

theorem State.invalidWord_nop {s : State} (h : s.cfg.invalidInsn = .nop) (w : Word) :
    s.invalidWord w = .next s.advance := by rw [State.invalidWord, h]

theorem State.invalidWord_trap {s : State} (h : s.cfg.invalidInsn = .trap) (w : Word) :
    s.invalidWord w = .next (s.exceptionEntry (s.pc + 4#32)) := by rw [State.invalidWord, h]

/-- Settles O40: the step is the policy's outcome at the boundary's state. -/
theorem invalidWords : Obligations.InvalidWords := by
  intro s w e hb hi ha hm hs hw hd
  rw [← s.sampled_cfg] at hm ⊢
  rw [← s.sampled_stored] at hs
  have hstep : step s = s.sampled.invalidWord w := by
    subst hw
    rw [step_eq_runFetched hb hi]
    exact State.runFetched_invalid (State.fetch_of_inMemory ha hm hs) hd
  rw [hstep]
  refine ⟨fun h => State.invalidWord_fault h w, fun h => ?_, fun h => ?_⟩
  · exact State.invalidWord_nop h w ▸ s.sampled.advance_movesTo
  · exact State.invalidWord_trap h w ▸ s.sampled.exceptionEntry_takesException _

end Sys2Proof.Machine
end

section
/-! PROOFS of the family 40_data_transfer.md: the sixteen loads and stores, each with its word and its four cases. -/

namespace Sys2Proof.Machine

/-! ### The extensions of a loaded value (20_memory.md R70) -/

/-- The bytes that a load zero-extends are got back from the low bits of its value. -/
theorem setWidth_of_zeroExtended {n : Nat} (hn : n ≤ 32) (x : BitVec n) : (x.setWidth 32).setWidth n = x := by
  rw [BitVec.setWidth_setWidth_of_le x hn, BitVec.setWidth_eq]

theorem signByte_setWidth (b : Byte) : signByte (b.setWidth 32) = b.signExtend 32 :=
  congrArg (BitVec.signExtend 32) (setWidth_of_zeroExtended (by decide) b)

theorem zeroByte_setWidth (b : Byte) : zeroByte (b.setWidth 32) = b.setWidth 32 :=
  congrArg (BitVec.setWidth 32) (setWidth_of_zeroExtended (by decide) b)

theorem signHalf_setWidth (h : Half) : signHalf (h.setWidth 32) = h.signExtend 32 :=
  congrArg (BitVec.signExtend 32) (setWidth_of_zeroExtended (by decide) h)

theorem zeroHalf_setWidth (h : Half) : zeroHalf (h.setWidth 32) = h.setWidth 32 :=
  congrArg (BitVec.setWidth 32) (setWidth_of_zeroExtended (by decide) h)

/-! ### Loads (40_data_transfer.md R130) -/

/-- A load instruction in its four cases, in terms of the bytes read at its address and of their extension. -/
theorem State.loadInto_of_value {s : State} {imm16 : Half} {rA : Reg} {width : AccessWidth} {raw v : Word}
    {extend : Word → Word} (hraw : s.loadValue (dataAddr s.cfg (s.effectiveAddr rA imm16)) width = raw)
    (hv : extend raw = v) (io : Bool) (rB : Reg) :
    LoadsOrStops (s.loadInto io width extend rB imm16 rA) s io (s.effectiveAddr rA imm16) width raw rB v := by
  subst hraw hv
  exact s.loadInto_loadsOrStops io width extend rB imm16 rA

/-- Settles O16: the bytes of the word are its value as it is. -/
theorem loadWords : Obligations.LoadWords := by
  rintro s rB imm16 rA _ rfl w rfl
  have loads := State.loadInto_of_value (s.loadValue_word (dataAddr s.cfg (s.effectiveAddr rA imm16)))
    (show wholeWord _ = _ from rfl)
  exact ⟨hasWord_iWord (op := 0x17) rfl, loads false rB, hasWord_iWord (op := 0x37) rfl, loads true rB⟩

/-- Settles O17: the two bytes of the halfword, sign-extended or zero-extended. -/
theorem loadHalves : Obligations.LoadHalves := by
  rintro s rB imm16 rA _ rfl h rfl
  have hraw := s.loadValue_half (dataAddr s.cfg (s.effectiveAddr rA imm16))
  have signed := State.loadInto_of_value hraw (signHalf_setWidth _)
  have unsigned := State.loadInto_of_value hraw (zeroHalf_setWidth _)
  exact ⟨hasWord_iWord (op := 0x0F) rfl, signed false rB, hasWord_iWord (op := 0x0B) rfl, unsigned false rB,
    hasWord_iWord (op := 0x2F) rfl, signed true rB, hasWord_iWord (op := 0x2B) rfl, unsigned true rB⟩

/-- Settles O18: the one byte, sign-extended or zero-extended. -/
theorem loadBytes : Obligations.LoadBytes := by
  rintro s rB imm16 rA _ rfl b rfl
  have hraw := s.loadValue_byte (dataAddr s.cfg (s.effectiveAddr rA imm16))
  have signed := State.loadInto_of_value hraw (signByte_setWidth _)
  have unsigned := State.loadInto_of_value hraw (zeroByte_setWidth _)
  exact ⟨hasWord_iWord (op := 0x07) rfl, signed false rB, hasWord_iWord (op := 0x03) rfl, unsigned false rB,
    hasWord_iWord (op := 0x27) rfl, signed true rB, hasWord_iWord (op := 0x23) rfl, unsigned true rB⟩

/-! ### Stores (40_data_transfer.md R130) -/

/-- Settles O19: a store instruction of either way and each width. -/
theorem storeInstructions : Obligations.StoreInstructions := by
  rintro s rB imm16 rA _ rfl hwf
  have stores (io : Bool) (width : AccessWidth) := State.storeFrom_storesOrStops hwf io width rB imm16 rA
  exact ⟨hasWord_iWord (op := 0x15) rfl, stores false .word, hasWord_iWord (op := 0x35) rfl, stores true .word,
    hasWord_iWord (op := 0x05) rfl, stores false .byte, hasWord_iWord (op := 0x0D) rfl, stores false .half,
    hasWord_iWord (op := 0x25) rfl, stores true .byte, hasWord_iWord (op := 0x2D) rfl, stores true .half⟩

end Sys2Proof.Machine
end

section
/-! PROOFS of the family 41_arith_logic.md: the register and immediate forms of the logical operations, sums,
products and quotients, each with its word. -/

namespace Sys2Proof.Machine

/-! ### Logical operations (41_arith_logic.md R151 to R160) -/

/-- Settles O4: each of the four is its bitwise operation, written to the destination. -/
theorem logicalRegisterForms : Obligations.LogicalRegisterForms := by
  intro s rC rA rB
  have writes := s.finish_writesOnly rC
  exact ⟨hasWord_rWord (opx := 0x0E) (imm5 := 0) rfl, writes _, hasWord_rWord (opx := 0x16) (imm5 := 0) rfl, writes _,
    hasWord_rWord (opx := 0x1E) (imm5 := 0) rfl, writes _, hasWord_rWord (opx := 0x06) (imm5 := 0) rfl, writes _⟩

/-- Settles O5: the operands are the zero-extended immediate and the immediate in the upper half. -/
theorem logicalImmediateForms : Obligations.LogicalImmediateForms := by
  intro s rB rA imm16
  have writes := s.finish_writesOnly rB
  exact ⟨hasWord_iWord (op := 0x0C) rfl, writes _, hasWord_iWord (op := 0x14) rfl, writes _,
    hasWord_iWord (op := 0x1C) rfl, writes _, hasWord_iWord (op := 0x2C) rfl, writes _,
    hasWord_iWord (op := 0x34) rfl, writes _, hasWord_iWord (op := 0x3C) rfl, writes _⟩

/-! ### Sums and differences (41_arith_logic.md R161, R162, R166, R167) -/

theorem sub_ofInt_eq_ofInt (a : Word) (k : Int) : a - BitVec.ofInt 32 k = BitVec.ofInt 32 (a.toInt - k) := by
  rw [Int.sub_eq_add_neg, BitVec.ofInt_add, BitVec.ofInt_neg, BitVec.ofInt_toInt, BitVec.sub_eq_add_neg]

theorem sub_eq_ofInt (a b : Word) : a - b = BitVec.ofInt 32 (a.toInt - b.toInt) := by
  rw [← sub_ofInt_eq_ofInt, BitVec.ofInt_toInt]

theorem add_sextImm_eq_ofInt (a : Word) (imm : Half) : a + sextImm imm = BitVec.ofInt 32 (a.toInt + imm.toInt) := by
  rw [BitVec.ofInt_add, BitVec.ofInt_toInt, sextImm_eq_ofInt]

/-- Settles O6: addition and subtraction of words are those of their readings modulo 2^32. -/
theorem addAndSubtract : Obligations.AddAndSubtract := by
  intro s rC rA rB imm16 k _ _
  exact ⟨hasWord_rWord (opx := 0x31) (imm5 := 0) rfl, (s.finish_writesOnly rC _).of_eq (BitVec.add_def _ _),
    hasWord_rWord (opx := 0x39) (imm5 := 0) rfl, (s.finish_writesOnly rC _).of_eq (sub_eq_ofInt _ _),
    hasWord_iWord (op := 0x04) rfl, (s.finish_writesOnly rB _).of_eq (add_sextImm_eq_ofInt _ _),
    rfl, (s.finish_writesOnly rB _).of_eq (sub_ofInt_eq_ofInt _ _)⟩

/-! ### Products (41_arith_logic.md R163, R168 to R171) -/

theorem mul_eq_ofInt (a b : Word) : a * b = BitVec.ofInt 32 (a.toInt * b.toInt) := by
  rw [BitVec.ofInt_mul, BitVec.ofInt_toInt, BitVec.ofInt_toInt]

theorem mul_sextImm_eq_ofInt (a : Word) (imm : Half) : a * sextImm imm = BitVec.ofInt 32 (a.toInt * imm.toInt) := by
  rw [mul_eq_ofInt, sextImm_toInt]

theorem upperHalf_natCast_mul (m n : Nat) : upperHalf ((m : Int) * n) = BitVec.ofNat 32 (m * n / 2 ^ 32) := by
  rw [upperHalf_eq, ← BitVec.ofInt_natCast]
  push_cast
  rfl

/-- A potentially unimplemented instruction: the exception, or a claim about its body. -/
theorem State.unlessAbsent_claim {s : State} {body : Result} (absent : Bool) (claim : Result → Prop)
    (h : claim body) :
    if absent then TakesException (s.unlessAbsent absent body) s (s.pc + 4#32)
    else claim (s.unlessAbsent absent body) := by
  cases absent
  · simpa using h
  · simpa using s.exceptionEntry_takesException (s.pc + 4#32)

/-- A potentially unimplemented instruction with its value stated as an equal one. -/
theorem State.unlessAbsent_finish_of_eq {s : State} {absent : Bool} {r : Reg} {v w : Word} (h : v = w) :
    if absent then TakesException (s.unlessAbsent absent (s.finish r v)) s (s.pc + 4#32)
    else WritesOnly (s.unlessAbsent absent (s.finish r v)) s r w :=
  State.unlessAbsent_claim absent (WritesOnly · s r w) ((s.finish_writesOnly r v).of_eq h)

/-- Settles O7: the product of words is that of their signed readings modulo 2^32. -/
theorem multiplyLow : Obligations.MultiplyLow := fun _ _ _ _ _ =>
  ⟨hasWord_rWord (opx := 0x27) (imm5 := 0) rfl, State.unlessAbsent_finish_of_eq (mul_eq_ofInt _ _),
    hasWord_iWord (op := 0x24) rfl, State.unlessAbsent_finish_of_eq (mul_sextImm_eq_ofInt _ _)⟩

/-- Settles O8: the upper half of the exact product is its floor division by 2^32, in each reading. -/
theorem multiplyHigh : Obligations.MultiplyHigh := fun _ _ _ _ =>
  ⟨hasWord_rWord (opx := 0x1F) (imm5 := 0) rfl, State.unlessAbsent_finish_of_eq (upperHalf_eq _),
    hasWord_rWord (opx := 0x07) (imm5 := 0) rfl, State.unlessAbsent_finish_of_eq (upperHalf_natCast_mul _ _),
    hasWord_rWord (opx := 0x17) (imm5 := 0) rfl, State.unlessAbsent_finish_of_eq (upperHalf_eq _)⟩

/-! ### Quotients (41_arith_logic.md R164, R165) -/

/-- The two corners in which the signed quotient is unknown: a zero divisor, and -2^31 divided by -1. -/
theorem signedQuotient_eq_none {a b : Word} (h : b = 0#32 ∨ (a = 0x80000000#32 ∧ b = 0xFFFFFFFF#32)) :
    signedQuotient a b = none := by
  unfold signedQuotient
  rcases h with hzero | hover
  · exact if_pos hzero
  · rw [if_pos hover, ite_self]

theorem signedQuotient_eq_some {a b : Word} (h : ¬ (b = 0#32 ∨ (a = 0x80000000#32 ∧ b = 0xFFFFFFFF#32))) :
    signedQuotient a b = some (BitVec.ofInt 32 (Int.tdiv a.toInt b.toInt)) := by
  obtain ⟨hzero, hover⟩ := not_or.mp h
  rw [signedQuotient, if_neg hzero, if_neg hover]

/-- Outside the corner -2^31 / -1 the quotient rounded toward zero is a signed word. -/
theorem toInt_ofInt_tdiv {a b : Word} (h : ¬ (a = 0x80000000#32 ∧ b = 0xFFFFFFFF#32)) :
    (BitVec.ofInt 32 (Int.tdiv a.toInt b.toInt)).toInt = Int.tdiv a.toInt b.toInt := by
  rw [BitVec.toInt_ofInt, ← BitVec.toInt_sdiv]
  exact BitVec.toInt_sdiv_of_ne_or_ne a b (not_and_or.mp h)

theorem unsignedQuotient_eq_none {a b : Word} (h : b = 0#32) : unsignedQuotient a b = none := if_pos h

theorem unsignedQuotient_eq_some {a b : Word} (h : b ≠ 0#32) :
    unsignedQuotient a b = some (BitVec.ofNat 32 (a.toNat / b.toNat)) := if_neg h

/-- A quotient rounded down is no more than its dividend, hence a word. -/
theorem toNat_ofNat_div (a b : Word) : (BitVec.ofNat 32 (a.toNat / b.toNat)).toNat = a.toNat / b.toNat :=
  (BitVec.toNat_ofNat _ _).trans (Nat.mod_eq_of_lt ((Nat.div_le_self _ _).trans_lt a.isLt))

theorem State.divide_none_writesFree (s : State) (rC : Reg) : WritesFree (s.divide rC none) s rC :=
  s.drawn_finish_writesFree rC

theorem State.divide_some_writesOnly (s : State) (rC : Reg) (q : Word) : WritesOnly (s.divide rC (some q)) s rC q :=
  s.finish_writesOnly rC q

/-- What R164 says of a signed division's result: a free value in the two corners, or the quotient. -/
def DividesSigned (s : State) (rC : Reg) (a b : Word) (o : Result) : Prop :=
  if b = 0#32 ∨ (a = 0x80000000#32 ∧ b = 0xFFFFFFFF#32) then WritesFree o s rC
  else ∃ q : Word, q.toInt = Int.tdiv a.toInt b.toInt ∧ WritesOnly o s rC q

/-- What R165 says of an unsigned division's result: a free value for a zero divisor, or the quotient. -/
def DividesUnsigned (s : State) (rC : Reg) (a b : Word) (o : Result) : Prop :=
  if b = 0#32 then WritesFree o s rC
  else ∃ q : Word, q.toNat = a.toNat / b.toNat ∧ WritesOnly o s rC q

theorem State.divide_dividesSigned (s : State) (rC : Reg) (a b : Word) :
    DividesSigned s rC a b (s.divide rC (signedQuotient a b)) := by
  unfold DividesSigned
  split
  · next hcorner =>
    rw [signedQuotient_eq_none hcorner]
    exact s.divide_none_writesFree rC
  · next h =>
    rw [signedQuotient_eq_some h]
    exact ⟨_, toInt_ofInt_tdiv fun hover => h (.inr hover), s.divide_some_writesOnly rC _⟩

theorem State.divide_dividesUnsigned (s : State) (rC : Reg) (a b : Word) :
    DividesUnsigned s rC a b (s.divide rC (unsignedQuotient a b)) := by
  unfold DividesUnsigned
  split
  · next hzero =>
    rw [unsignedQuotient_eq_none hzero]
    exact s.divide_none_writesFree rC
  · next h =>
    rw [unsignedQuotient_eq_some h]
    exact ⟨_, toNat_ofNat_div a b, s.divide_some_writesOnly rC _⟩

/-- Settles O9: the exception, or the division, whose quotient is a word outside its two corners. -/
theorem divideSigned : Obligations.DivideSigned := fun s rC _ _ =>
  ⟨hasWord_rWord (opx := 0x25) (imm5 := 0) rfl,
    State.unlessAbsent_claim s.cfg.unimplemented.div (DividesSigned s rC _ _) (s.divide_dividesSigned rC _ _)⟩

/-- Settles O10: the exception, or the division, whose quotient is a word unless the divisor is zero. -/
theorem divideUnsigned : Obligations.DivideUnsigned := fun s rC _ _ =>
  ⟨hasWord_rWord (opx := 0x24) (imm5 := 0) rfl,
    State.unlessAbsent_claim s.cfg.unimplemented.divu (DividesUnsigned s rC _ _) (s.divide_dividesUnsigned rC _ _)⟩

end Sys2Proof.Machine
end

section
/-! PROOFS of the family 42_move.md: each move is the words of its expansion, and its value reaches the destination. -/

namespace Sys2Proof.Machine

/-! ### Going on one word further (42_move.md R179, R184) -/

/-- Once more to the next word, without any other effect, carries a transfer's target one word further. -/
theorem Transfers.advance {s t : State} {target : Word} {r : Reg} {v : Word} (h : Transfers (.next t) s target r v) :
    Transfers (.next t.advance) s (target + 4#32) r v := by
  obtain ⟨_, ⟨⟩, hpc, hregs, hcontrol, hmem, houtside⟩ := h
  refine ⟨_, rfl, by simp [hpc], fun q => ?_, hcontrol.trans t.advance_sameControl, fun a => ?_, ?_⟩
  · simpa using hregs q
  · simpa using hmem a
  · obtain ⟨hirq, hinputs, hcustom, hio, hstored, hviews, hdraws⟩ := houtside
    constructor <;> simpa

/-- Both words of `movia` as one move (42_move.md R184). -/
theorem execMovia_transfers (rB : Reg) (label : Word) (s : State) :
    Transfers (execMovia rB label s) s (s.pc + 8#32) rB label := by
  have hpc : s.pc + 4#32 + 4#32 = s.pc + 8#32 := BitVec.add_assoc _ _ _
  exact hpc ▸ Transfers.advance (s.finish_writesOnly rB label)

/-! ### The five moves (42_move.md R180 to R184) -/

theorem zextImm_eq_ofNat (imm : Half) : zextImm imm = BitVec.ofNat 32 imm.toNat := (BitVec.ofNat_toNat 32 imm).symm

/-- Settles O11: the words are those of the expansions, and four of the moves end as any ordinary instruction does,
`movia` one word later. -/
theorem moves : Obligations.Moves := by
  intro s rC rA rB imm16 label
  have word (i : Instr) := encode_eq_flatMap_expansion i
  exact ⟨word (.mov rC rA), s.finish_writesOnly rC _, word (.movhi rB imm16), s.finish_writesOnly rB _,
    word (.movi rB imm16), (s.finish_writesOnly rB _).of_eq (sextImm_eq_ofInt imm16),
    word (.movui rB imm16), (s.finish_writesOnly rB _).of_eq (zextImm_eq_ofNat imm16),
    word (.movia rB label), execMovia_transfers rB label s⟩

end Sys2Proof.Machine
end

section
/-! PROOFS of the family 43_compare.md: the comparisons of registers and with an immediate, each with its word. -/

namespace Sys2Proof.Machine

/-! ### The two equalities (43_compare.md R191, R192, R201, R202) -/

theorem relationHolds_ne (a b : Word) : relationHolds .ne a b = decide (a ≠ b) := decide_not.symm

/-- Words are equal as their signed readings are. -/
theorem relationHolds_eq_toInt (a b : Word) : relationHolds .eq a b = decide (a.toInt = b.toInt) :=
  decide_eq_decide.mpr BitVec.toInt_inj.symm

theorem relationHolds_ne_toInt (a b : Word) : relationHolds .ne a b = decide (a.toInt ≠ b.toInt) :=
  (relationHolds_ne a b).trans (decide_eq_decide.mpr BitVec.toInt_inj.symm.not)

/-! ### The ten relations (43_compare.md R190) -/

/-- Settles O12: each comparison is its relation's truth value, written to the destination; four have the word of
the converse relation with the operands exchanged. -/
theorem compareRegisters : Obligations.CompareRegisters := by
  intro s rC rA rB
  have word (i : Instr) := encode_eq_flatMap_expansion i
  exact ⟨hasWord_rWord (opx := 0x20) (imm5 := 0) rfl, State.compareInto_writesOnly rfl,
    hasWord_rWord (opx := 0x18) (imm5 := 0) rfl, State.compareInto_writesOnly (relationHolds_ne _ _),
    hasWord_rWord (opx := 0x08) (imm5 := 0) rfl, State.compareInto_writesOnly rfl,
    hasWord_rWord (opx := 0x28) (imm5 := 0) rfl, State.compareInto_writesOnly rfl,
    word (.cmpgt rC rA rB), State.compareInto_writesOnly rfl,
    word (.cmpgtu rC rA rB), State.compareInto_writesOnly rfl,
    word (.cmple rC rA rB), State.compareInto_writesOnly rfl,
    word (.cmpleu rC rA rB), State.compareInto_writesOnly rfl,
    hasWord_rWord (opx := 0x10) (imm5 := 0) rfl, State.compareInto_writesOnly rfl,
    hasWord_rWord (opx := 0x30) (imm5 := 0) rfl, State.compareInto_writesOnly rfl⟩

/-- Settles O13: the immediate's signed number is that of its sign extension, its unsigned number that of its zero
extension, so each comparison is its relation between words; four have the word of the relation to the successor. -/
theorem compareImmediates : Obligations.CompareImmediates := by
  intro s rB rA imm16
  have word (i : Instr) := encode_eq_flatMap_expansion i
  rw [← sextImm_toInt imm16, ← zextImm_toNat imm16]
  exact ⟨hasWord_iWord (op := 0x20) rfl, State.compareInto_writesOnly (relationHolds_eq_toInt _ _),
    hasWord_iWord (op := 0x18) rfl, State.compareInto_writesOnly (relationHolds_ne_toInt _ _),
    hasWord_iWord (op := 0x08) rfl, State.compareInto_writesOnly rfl,
    hasWord_iWord (op := 0x28) rfl, State.compareInto_writesOnly rfl,
    fun _ => ⟨word (.cmpgti rB rA imm16), State.compareInto_writesOnly rfl⟩,
    fun _ => ⟨word (.cmpgtui rB rA imm16), State.compareInto_writesOnly rfl⟩,
    fun _ => ⟨word (.cmplei rB rA imm16), State.compareInto_writesOnly rfl⟩,
    fun _ => ⟨word (.cmpleui rB rA imm16), State.compareInto_writesOnly rfl⟩,
    hasWord_iWord (op := 0x10) rfl, State.compareInto_writesOnly rfl,
    hasWord_iWord (op := 0x30) rfl, State.compareInto_writesOnly rfl⟩

end Sys2Proof.Machine
end

section
/-! PROOFS of the family 44_shift_rotate.md: the rotates as two shifts put together, the shifts as products and floor
divisions by a power of two, each with its word. -/

namespace Sys2Proof.Machine

/-! ### The count (44_shift_rotate.md R215) -/

theorem regCount_lt (v : Word) : regCount v < 32 := (v.extractLsb' 0 5).isLt

theorem immCount_lt (imm5 : BitVec 5) : immCount imm5 < 32 := imm5.isLt

/-! ### The rotates (44_shift_rotate.md R216 to R218) -/

/-- The bits that leave at the top come back at the bottom; for a count of 0 none does, the shift by 32 being 0. -/
theorem rotateLeft_eq_or (a : Word) {n : Nat} (h : n < 32) : a.rotateLeft n = (a <<< n) ||| (a >>> (32 - n)) := by
  rw [BitVec.rotateLeft_def, Nat.mod_eq_of_lt h]

theorem rotateRight_eq_or (a : Word) {n : Nat} (h : n < 32) : a.rotateRight n = (a >>> n) ||| (a <<< (32 - n)) := by
  rw [BitVec.rotateRight_def, Nat.mod_eq_of_lt h]

/-- Settles O14: the model's rotates are by a count below 32, and are then the two shifts put together. -/
theorem rotates : Obligations.Rotates := by
  intro s rC rA rB imm5 n hn
  obtain rfl : n = regCount (s.readReg rB) := hn.trans (regCount_eq _).symm
  have writes := s.finish_writesOnly rC
  exact ⟨hasWord_rWord (opx := 0x03) (imm5 := 0) rfl, (writes _).of_eq (rotateLeft_eq_or _ (regCount_lt _)),
    hasWord_rWord (opx := 0x0B) (imm5 := 0) rfl, (writes _).of_eq (rotateRight_eq_or _ (regCount_lt _)),
    hasWord_rWord (opx := 0x02) rfl, (writes _).of_eq (rotateLeft_eq_or _ (immCount_lt imm5))⟩

/-! ### The shifts (44_shift_rotate.md R219 to R224) -/

/-- A left shift multiplies by a power of two, modulo 2^32. -/
theorem shiftLeft_eq_ofNat_mul (a : Word) (n : Nat) : a <<< n = BitVec.ofNat 32 (a.toNat * 2 ^ n) := by
  apply BitVec.eq_of_toNat_eq
  rw [BitVec.toNat_shiftLeft, Nat.shiftLeft_eq, BitVec.toNat_ofNat]

/-- A logical right shift divides the unsigned value by a power of two, rounding down. -/
theorem ushiftRight_eq_ofNat_div (a : Word) (n : Nat) : a >>> n = BitVec.ofNat 32 (a.toNat / 2 ^ n) := by
  have hlt : a.toNat / 2 ^ n < 2 ^ 32 := (Nat.div_le_self _ _).trans_lt a.isLt
  apply BitVec.eq_of_toNat_eq
  rw [BitVec.toNat_ushiftRight, Nat.shiftRight_eq_div_pow, BitVec.toNat_ofNat, Nat.mod_eq_of_lt hlt]

/-- An arithmetic right shift divides the signed value by a power of two, rounding down. -/
theorem sshiftRight_eq_ofInt_div (a : Word) (n : Nat) : a.sshiftRight n = BitVec.ofInt 32 (a.toInt / 2 ^ n) := by
  rw [BitVec.sshiftRight_eq, Int.shiftRight_eq_div_pow, Nat.cast_pow, Nat.cast_ofNat]

/-- Settles O15: each shift is its product or floor division, with the count of the register or the immediate. -/
theorem shifts : Obligations.Shifts := by
  intro s rC rA rB imm5 n hn
  obtain rfl : n = regCount (s.readReg rB) := hn.trans (regCount_eq _).symm
  have writes := s.finish_writesOnly rC
  exact ⟨hasWord_rWord (opx := 0x13) (imm5 := 0) rfl, (writes _).of_eq (shiftLeft_eq_ofNat_mul _ _),
    hasWord_rWord (opx := 0x12) rfl, (writes _).of_eq (shiftLeft_eq_ofNat_mul _ _),
    hasWord_rWord (opx := 0x3B) (imm5 := 0) rfl, (writes _).of_eq (sshiftRight_eq_ofInt_div _ _),
    hasWord_rWord (opx := 0x1B) (imm5 := 0) rfl, (writes _).of_eq (ushiftRight_eq_ofNat_div _ _),
    hasWord_rWord (opx := 0x3A) rfl, (writes _).of_eq (sshiftRight_eq_ofInt_div _ _),
    hasWord_rWord (opx := 0x1A) rfl, (writes _).of_eq (ushiftRight_eq_ofNat_div _ _)⟩

end Sys2Proof.Machine
end

section
/-! PROOFS of the family 45_program_control.md: the calls, the jumps and the ten conditional branches, each with its
word. -/

namespace Sys2Proof.Machine

/-! ### Calls (45_program_control.md R230, R231) -/

/-- A J-type word with its fields in their places (30_encoding.md R103). -/
theorem hasWord_jWord {i : Instr} {imm26 : BitVec 26} {op : BitVec 6} (h : encode i = [jWord imm26 op]) :
    HasWord i (imm26.toNat * 2 ^ 6 + op.toNat) := by
  rw [HasWord, h, List.map_singleton, jWord_toNat]

/-- Settles O20: the target of `call` is a multiple of 4 by its two zero bits, that of `callr` where the register is;
it is read before `r31` is written. -/
theorem calls : Obligations.Calls := by
  intro s imm26 rA
  rw [← s.callTarget_eq]
  exact ⟨hasWord_jWord (op := 0x00) rfl, State.writeReg_jump_transfers (s.callTarget_aligned imm26) _ _,
    hasWord_rWord (opx := 0x1D) (imm5 := 0) rfl, fun aligned => State.writeReg_jump_transfers aligned _ _,
    State.jump_refused⟩

/-! ### Jumps (45_program_control.md R232 to R234) -/

/-- Settles O21: each of the three is the jump to its target. -/
theorem jumps : Obligations.Jumps := by
  intro s rA imm16
  rw [← s.branchTarget_eq]
  exact ⟨hasWord_rWord (a := 31) (b := 0) (c := 0) (opx := 0x05) (imm5 := 0) rfl, s.jump_jumpsOrStops _,
    hasWord_rWord (opx := 0x0D) (imm5 := 0) rfl, s.jump_jumpsOrStops _,
    hasWord_iWord (op := 0x06) rfl, s.jump_jumpsOrStops _⟩

/-! ### Conditional branches (45_program_control.md R235 to R245) -/

/-- Settles O22: each branch tests its relation between the two registers; four have the word of the converse relation
with the registers exchanged. -/
theorem conditionalBranches : Obligations.ConditionalBranches := by
  rintro s rA rB imm16 _ rfl
  rw [← s.branchTarget_eq]
  have word (i : Instr) := encode_eq_flatMap_expansion i
  exact ⟨hasWord_iWord (op := 0x0E) rfl, State.branchIf_branchesIf imm16 rfl,
    hasWord_iWord (op := 0x2E) rfl, State.branchIf_branchesIf imm16 rfl,
    word (.bgt rA rB imm16), State.branchIf_branchesIf imm16 rfl,
    word (.bgtu rA rB imm16), State.branchIf_branchesIf imm16 rfl,
    word (.ble rA rB imm16), State.branchIf_branchesIf imm16 rfl,
    word (.bleu rA rB imm16), State.branchIf_branchesIf imm16 rfl,
    hasWord_iWord (op := 0x16) rfl, State.branchIf_branchesIf imm16 rfl,
    hasWord_iWord (op := 0x36) rfl, State.branchIf_branchesIf imm16 rfl,
    hasWord_iWord (op := 0x26) rfl, State.branchIf_branchesIf imm16 rfl,
    hasWord_iWord (op := 0x1E) rfl, State.branchIf_branchesIf imm16 (relationHolds_ne _ _)⟩

end Sys2Proof.Machine
end

section
/-! PROOFS of the family 46_other_control.md: trap, break and the two returns, the reads and writes of control
registers, cache management and ordering, each with its word. -/

namespace Sys2Proof.Machine

/-! ### Entries (46_other_control.md R250, R252) -/

/-- Settles O23: `trap` is the exception entry, whatever the mode. -/
theorem softwareTrap : Obligations.SoftwareTrap := fun s =>
  ⟨hasWord_rWord (a := 0) (b := 0) (c := 29) (opx := 0x2D) (imm5 := 0) rfl, s.exceptionEntry_takesException _⟩

/-- Settles O24: `break` is the break entry, whatever the mode and the operand. -/
theorem breakInstruction : Obligations.BreakInstruction := fun s _ =>
  ⟨hasWord_rWord (a := 0) (b := 0) (c := 30) (opx := 0x34) rfl, s.breakEntry_takesBreak _⟩

/-! ### Returns (46_other_control.md R251, R253) -/

/-- The state a return goes on from: `status` and the debug mode bit restored. -/
def State.restored (s : State) (b : StatusBits) (debug : Bool) : State := { s with status := b, inDebug := debug }

theorem State.exceptionReturn_eq_jump (s : State) :
    s.exceptionReturn = (s.restored (statusFor s.cfg s.estatus) s.inDebug).jump (s.readReg 29) := rfl

theorem State.breakReturn_eq_jump (s : State) :
    s.breakReturn = (s.restored (statusFor s.cfg s.bstatus) false).jump (s.readReg 30) := rfl

theorem State.restored_jump_returns {s : State} {target : Word} (h : target.toNat % 4 = 0) (b : StatusBits)
    (debug : Bool) : Returns ((s.restored b debug).jump target) s target b debug := by
  rw [State.jump_next h]
  exact ⟨_, rfl, rfl, rfl, rfl, fun q => State.readReg_congr rfl q, rfl, rfl, rfl, rfl, fun _ => rfl,
    ⟨rfl, rfl, rfl, rfl, rfl, rfl, rfl⟩⟩

/-- A return in its three cases: user mode, an aligned target, a misaligned one. -/
theorem State.privileged_restored_jump (s : State) (target : Word) (b : StatusBits) (debug : Bool) {o : Result}
    (ho : o = s.privileged ((s.restored b debug).jump target)) :
    (s.status.u = true → TakesException o s (s.pc + 4#32)) ∧
    (s.status.u = false → target.toNat % 4 = 0 → Returns o s target b debug) ∧
    (s.status.u = false → target.toNat % 4 ≠ 0 → o = .refused (.misalignedPc target)) := by
  subst ho
  refine ⟨fun hu => State.privileged_takesException hu _, fun hu ha => ?_, fun hu ha => ?_⟩
  · rw [State.privileged_of_supervisor hu]
    exact State.restored_jump_returns ha b debug
  · rw [State.privileged_of_supervisor hu, State.jump_refused ha]

/-- Settles O25: `eret` jumps to `ea` with `status` restored from `estatus`. -/
theorem exceptionReturn : Obligations.ExceptionReturn := fun s =>
  ⟨hasWord_rWord (a := 29) (b := 30) (c := 0) (opx := 0x01) (imm5 := 0) rfl,
    s.privileged_restored_jump _ _ _ (congrArg s.privileged s.exceptionReturn_eq_jump)⟩

/-- Settles O26: `bret` jumps to `ba` with `status` restored from `bstatus` and debug mode left. -/
theorem breakReturn : Obligations.BreakReturn := fun s _ =>
  ⟨hasWord_rWord (a := 30) (b := 0) (opx := 0x09) (imm5 := 0) rfl,
    s.privileged_restored_jump _ _ _ (congrArg s.privileged s.breakReturn_eq_jump)⟩

/-! ### Reading control registers (46_other_control.md R254) -/

theorem wordOfStatus_getLsbD_zero (b : StatusBits) (free : Word) : (wordOfStatus b free).getLsbD 0 = b.pie :=
  BitVec.getLsbD_append.trans (by simp)

theorem wordOfStatus_getLsbD_one (b : StatusBits) (free : Word) : (wordOfStatus b free).getLsbD 1 = b.u :=
  BitVec.getLsbD_append.trans (BitVec.getLsbD_append.trans (by simp))

/-- The reserved bits of a status register read are those of the free value (10_state.md R37). -/
theorem wordOfStatus_reserved (b : StatusBits) (free : Word) :
    (wordOfStatus b free).extractLsb' 2 30 = free.extractLsb' 2 30 := by
  apply BitVec.eq_of_toNat_eq
  rw [toNat_field, toNat_field, wordOfStatus_toNat]
  have hu := b.u.toNat_le
  have hpie := b.pie.toNat_le
  omega

/-- Reading a status register into `r` with one free value drawn. -/
theorem State.drawn_finish_readsStatus (s : State) (r : Reg) (b : StatusBits) :
    ReadsStatus (s.drawn.finish r (wordOfStatus b (Config.freeWord s.draws))) s r b := by
  refine ⟨_, _, rfl, by simp, fun q => ?_, wordOfStatus_getLsbD_zero b _, wordOfStatus_getLsbD_one b _,
    wordOfStatus_reserved b _, by constructor <;> simp, fun a => by simp, by simp, by simp, by simp, by simp, by simp,
    by simp, by simp⟩
  simpa using s.drawn.readReg_writeReg r q _

theorem State.readCtl_undefined {s : State} {n : CtlNum} (h : 5 < n.val) :
    s.readCtl n = .refused (.undefinedControlRegister n) := by
  unfold State.readCtl
  split
  case h_7 => rfl
  all_goals omega

theorem exec_rdctl_of_supervisor {s : State} (hu : s.status.u = false) (rC : Reg) (n : CtlNum) :
    exec (.rdctl rC n) s = andThen (s.readCtl n) fun r => r.2.finish rC r.1 := State.privileged_of_supervisor hu _

/-- Settles O27, register by register. -/
theorem readControlRegister : Obligations.ReadControlRegister := by
  intro s rC n
  refine ⟨hasWord_rWord (a := 0) (b := 0) (opx := 0x26) (imm5 := BitVec.ofFin n) rfl,
    fun hu => State.privileged_takesException hu _, fun hu => ?_⟩
  simp only [exec_rdctl_of_supervisor hu]
  refine ⟨s.drawn_finish_readsStatus rC s.status, s.drawn_finish_readsStatus rC s.estatus,
    s.drawn_finish_readsStatus rC s.bstatus, s.finish_writesOnly rC s.ienable, s.finish_writesOnly rC s.ipending,
    s.finish_writesOnly rC s.cfg.cpuid, fun hn => ?_⟩
  rw [State.readCtl_undefined hn, andThen_refused]

/-! ### Writing control registers (46_other_control.md R255) -/

/-- Writing the four control registers and going on at the next word. -/
theorem State.writesControl_advance {s t : State} {status estatus bstatus : StatusBits} {ienable : Word}
    (h : t = { s with status := status, estatus := estatus, bstatus := bstatus, ienable := ienable }) :
    WritesControl (.next t.advance) s status estatus bstatus ienable := by
  subst h
  exact ⟨_, rfl, rfl, rfl, rfl, rfl, rfl, rfl, rfl, fun q => State.readReg_congr rfl q, fun _ => rfl,
    ⟨rfl, rfl, rfl, rfl, rfl, rfl, rfl⟩⟩

theorem State.writeCtl_status_refused {s : State} {v : Word} (h : v.getLsbD 1 = true ∧ s.cfg.hasUserMode = true) :
    s.writeCtl 0 v = .refused .wrctlSetsU := if_pos ((Bool.and_eq_true _ _).mpr h)

theorem State.writeCtl_status_next {s : State} {v : Word} (h : ¬ (v.getLsbD 1 = true ∧ s.cfg.hasUserMode = true)) :
    s.writeCtl 0 v = .next { s with status := { pie := v.getLsbD 0, u := false } } :=
  if_neg fun hand => h ((Bool.and_eq_true _ _).mp hand)

theorem State.writeCtl_undefined {s : State} {n : CtlNum} (h : 5 < n.val) (v : Word) :
    s.writeCtl n v = .refused (.undefinedControlRegister n) := by
  unfold State.writeCtl
  split
  case h_7 => rfl
  all_goals omega

theorem exec_wrctl_of_supervisor {s : State} (hu : s.status.u = false) (n : CtlNum) (rA : Reg) :
    exec (.wrctl n rA) s = andThen (s.writeCtl n (s.readReg rA)) fun t => .next t.advance :=
  State.privileged_of_supervisor hu _

/-- Settles O28, register by register. -/
theorem writeControlRegister : Obligations.WriteControlRegister := by
  rintro s rA n _ rfl
  refine ⟨hasWord_rWord (b := 0) (c := 0) (opx := 0x2E) (imm5 := BitVec.ofFin n) rfl,
    fun hu => State.privileged_takesException hu _, fun hu => ?_⟩
  simp only [exec_wrctl_of_supervisor hu]
  refine ⟨fun hsets => ?_, fun hclear => ?_, State.writesControl_advance rfl, State.writesControl_advance rfl,
    State.writesControl_advance rfl, rfl, State.writesControl_advance rfl, fun hn => ?_⟩
  · rw [State.writeCtl_status_refused hsets, andThen_refused]
  · rw [State.writeCtl_status_next hclear, andThen_next]
    exact State.writesControl_advance rfl
  · rw [State.writeCtl_undefined hn, andThen_refused]

/-! ### Cache management and ordering (46_other_control.md R256 to R263) -/

/-- Changing the model's own records and going on at the next word. -/
theorem State.onlyMarks_advance {s t : State} {stored : List StoredWord} {views : List ViewedByte}
    (h : t = { s with stored := stored, views := views }) : OnlyMarks (.next t.advance) s stored views := by
  subst h
  exact ⟨_, rfl, rfl, fun q => State.readReg_congr rfl q, ⟨rfl, rfl, rfl, rfl, rfl, rfl⟩, fun _ => rfl, rfl, rfl, rfl,
    rfl, rfl, rfl, rfl⟩

theorem StoredWord.afterDataFlush_eq (k : Nat) (p : Word) : StoredWord.afterDataFlush k p = fun e =>
    if e.addr.toNat / 2 ^ (k + 2) = p.toNat / 2 ^ (k + 2) then { e with writtenBack := true } else e := by
  funext e
  simp only [StoredWord.afterDataFlush, sameLine_eq, decide_eq_true_eq]

theorem StoredWord.afterInstructionFlush_eq (k : Nat) (p : Word) : StoredWord.afterInstructionFlush k p = fun e =>
    if e.addr.toNat / 2 ^ (k + 2) = p.toNat / 2 ^ (k + 2) ∧ e.writtenBack = true then { e with invalidated := true }
    else e := by
  funext e
  simp only [StoredWord.afterInstructionFlush, sameLine_eq, Bool.and_eq_true, decide_eq_true_eq]

/-- The bytes outside a line. -/
theorem not_sameLine_eq (k : Nat) (p : Word) : (fun v : ViewedByte => !sameLine k v.addr p) = fun v =>
    decide (v.addr.toNat / 2 ^ (k + 2) ≠ p.toNat / 2 ^ (k + 2)) := by
  funext v
  rw [sameLine_eq, decide_not]

section Lines
variable {s : State}

theorem State.flushDataLine_none (hc : s.cfg.dcacheLine = none) (p : Word) : s.flushDataLine p = s := by
  rw [State.flushDataLine, hc]

theorem State.flushDataLine_some {k : Nat} (hc : s.cfg.dcacheLine = some k) (p : Word) :
    s.flushDataLine p = { s with
      stored := s.stored.map fun e =>
        if e.addr.toNat / 2 ^ (k + 2) = p.toNat / 2 ^ (k + 2) then { e with writtenBack := true } else e
      views := s.views.filter fun v => v.addr.toNat / 2 ^ (k + 2) ≠ p.toNat / 2 ^ (k + 2) } := by
  rw [State.flushDataLine, hc, ← StoredWord.afterDataFlush_eq, ← not_sameLine_eq]

theorem State.invalidateDataLine_none (hc : s.cfg.dcacheLine = none) (p : Word) : s.invalidateDataLine p = s := by
  rw [State.invalidateDataLine, hc]

theorem State.invalidateDataLine_some {k : Nat} (hc : s.cfg.dcacheLine = some k) (p : Word) :
    s.invalidateDataLine p =
      { s with views := s.views.filter fun v => v.addr.toNat / 2 ^ (k + 2) ≠ p.toNat / 2 ^ (k + 2) } := by
  rw [State.invalidateDataLine, hc, ← not_sameLine_eq]

theorem State.invalidateInstructionLine_none (hc : s.cfg.icacheLine = none) (p : Word) :
    s.invalidateInstructionLine p = s := by
  rw [State.invalidateInstructionLine, hc]

theorem State.invalidateInstructionLine_some {k : Nat} (hc : s.cfg.icacheLine = some k) (p : Word) :
    s.invalidateInstructionLine p = { s with
      stored := s.stored.map fun e =>
        if e.addr.toNat / 2 ^ (k + 2) = p.toNat / 2 ^ (k + 2) ∧ e.writtenBack = true then { e with invalidated := true }
        else e } := by
  rw [State.invalidateInstructionLine, hc, ← StoredWord.afterInstructionFlush_eq]

theorem exec_initd_of_supervisor (hu : s.status.u = false) (imm16 : Half) (rA : Reg) :
    exec (.initd imm16 rA) s = .next (s.invalidateDataLine (dataAddr s.cfg (s.effectiveAddr rA imm16))).advance :=
  State.privileged_of_supervisor hu _

/-- `flushi`, and `initi` outside user mode, invalidate the instruction cache line of the register's value. -/
theorem exec_flushi_or_initi {i : Instr} {rA : Reg} (hi : i = .flushi rA ∨ (i = .initi rA ∧ s.status.u = false)) :
    exec i s = .next (s.invalidateInstructionLine (s.readReg rA)).advance := by
  rcases hi with rfl | ⟨rfl, hu⟩
  · rfl
  · exact State.privileged_of_supervisor hu _

end Lines

/-- Settles O29: each is one of the line operations, with the cache and without it. -/
theorem cacheAndOrdering : Obligations.CacheAndOrdering := by
  rintro s imm16 rA _ _ rfl rfl
  refine ⟨hasWord_iWord (op := 0x3B) rfl, hasWord_iWord (op := 0x33) rfl,
    hasWord_rWord (opx := 0x0C) (imm5 := 0) rfl, hasWord_rWord (opx := 0x29) (imm5 := 0) rfl,
    hasWord_rWord (a := 0) (b := 0) (c := 0) (opx := 0x04) (imm5 := 0) rfl,
    hasWord_rWord (a := 0) (b := 0) (c := 0) (opx := 0x36) (imm5 := 0) rfl,
    ?_, fun i hi => ?_, State.onlyMarks_advance rfl, s.advance_movesTo⟩
  · rintro _ rfl
    cases hc : s.cfg.dcacheLine with
    | none =>
      refine ⟨State.onlyMarks_advance (State.flushDataLine_none hc _), fun hu => ?_⟩
      rw [exec_initd_of_supervisor hu]
      exact State.onlyMarks_advance (State.invalidateDataLine_none hc _)
    | some k =>
      refine ⟨State.onlyMarks_advance (State.flushDataLine_some hc _), fun hu => ?_⟩
      rw [exec_initd_of_supervisor hu]
      exact State.onlyMarks_advance (State.invalidateDataLine_some hc _)
  · rw [exec_flushi_or_initi hi]
    cases hc : s.cfg.icacheLine with
    | none => exact State.onlyMarks_advance (State.invalidateInstructionLine_none hc _)
    | some k => exact State.onlyMarks_advance (State.invalidateInstructionLine_some hc _)

end Sys2Proof.Machine
end

section
/-! PROOFS of the family 47_custom_nop_unimplemented.md: custom instructions, the no-operation, and what depends on
the seven instructions a core may lack. -/

namespace Sys2Proof.Machine

/-! ### Custom instructions (47_custom_nop_unimplemented.md R270) -/

/-- A `custom` word with its fields in their places (30_encoding.md R105). -/
theorem hasWord_custom (n : Byte) (xC xA xB : XReg) : HasWord (.custom n xC xA xB)
    (xA.index.val * 2 ^ 27 + xB.index.val * 2 ^ 22 + xC.index.val * 2 ^ 17 + xA.flag.toNat * 2 ^ 16 +
      xB.flag.toNat * 2 ^ 15 + xC.flag.toNat * 2 ^ 14 + n.toNat * 2 ^ 6 + 0x32) := by
  rw [HasWord, encode, List.map_singleton, customWord_toNat, List.singleton_inj]
  omega

/-- A source operand of `custom` reads from the register file its flag names. -/
theorem State.customOperand_eq {s : State} {x : XReg} {a : Word} (hr : ∀ i, x = .r i → a = s.readReg i)
    (hc : ∀ i, x = .c i → a = s.custom.regs[i]) : s.customOperand x = a := by
  cases x with
  | r i => exact (hr i rfl).symm
  | c i => exact (hc i rfl).symm

theorem exec_custom_present {s : State} {n : Byte} (h : n ∈ s.cfg.customPresent) (xC xA xB : XReg) :
    exec (.custom n xC xA xB) s = .next (s.customWrite xC (s.customCall n xC xA xB)).advance :=
  if_pos (List.contains_iff_mem.mpr h)

theorem exec_custom_absent {s : State} {n : Byte} (h : n ∉ s.cfg.customPresent) (xC xA xB : XReg) :
    exec (.custom n xC xA xB) s = .refused (.customNotPresent n) :=
  if_neg (mt List.contains_iff_mem.mp h)

/-- The result in a general-purpose register, the logic's state as the design gives it. -/
theorem State.customWrite_r (s : State) (i : Reg) (out : Word × CustomLogic) :
    s.RegsAfter (s.customWrite (.r i) out) i out.1 ∧ (s.customWrite (.r i) out).custom = out.2 :=
  ⟨State.writeReg_regsAfter { s with custom := out.2 } i out.1, State.writeReg_custom _ i out.1⟩

/-- The result in a register of the logic, the rest of the logic's state as the design gives it. -/
theorem State.customWrite_c (s : State) (i : Reg) (out : Word × CustomLogic) :
    s.SameRegs (s.customWrite (.c i) out) ∧ (s.customWrite (.c i) out).custom.inner = out.2.inner ∧
      ∀ j : Reg, (s.customWrite (.c i) out).custom.regs[j] = if j = i then out.1 else out.2.regs[j] := by
  refine ⟨fun q => State.readReg_congr rfl q, rfl, fun j => ?_⟩
  simp [State.customWrite, Vector.getElem_set, Fin.ext_iff, eq_comm]

/-- Settles O31: the design's result and state reach the destination, and the rest is as before. -/
theorem customInstructions : Obligations.CustomInstructions := by
  rintro s n xC xA xB a b out haR haC hbR hbC rfl
  obtain rfl := State.customOperand_eq haR haC
  obtain rfl := State.customOperand_eq hbR hbC
  refine ⟨hasWord_custom n xC xA xB, fun hn => ?_, fun hn => exec_custom_absent hn xC xA xB⟩
  refine ⟨_, exec_custom_present hn xC xA xB, by simp, ?_, fun p => by simp, by simp, by simp, by simp, by simp,
    by simp, by simp, ?_, ?_⟩
  · exact (s.customWrite_sameControl xC _).trans (State.advance_sameControl _)
  · rintro i rfl
    exact s.customWrite_r i _
  · rintro i rfl
    exact s.customWrite_c i _

/-! ### The no-operation (47_custom_nop_unimplemented.md R271) -/

/-- Settles O32: `nop` is an addition whose sum is lost in `r0`. -/
theorem noOperation : Obligations.NoOperation := by
  intro s
  have hadd : exec (.add 0 0 0) s = .next s.advance := rfl
  exact ⟨by decide, rfl, s.advance_movesTo, hadd ▸ s.advance_movesTo, by decide⟩

/-! ### The instructions a core may lack (47_custom_nop_unimplemented.md R272, R273) -/

/-- The same state on a core that lacks `c` and is otherwise the same. -/
def State.lacking (s : State) (c : Unimplemented) : State :=
  { s with cfg := { s.cfg with unimplemented := c } }

/-- A core that lacks all seven. -/
def Config.lackingAll : Config :=
  { Config.reference with unimplemented := ⟨true, true, true, true, true, true, true⟩ }

section Lacking
variable {s t : State} (c : Unimplemented)

/-- Going on at the next word after an operation that the lack does not touch. -/
theorem next_advance_lacking {u : State} (h : u = t.lacking c) :
    (.next u.advance : Result) = .next (t.advance.lacking c) := by
  rw [h]
  rfl

theorem State.writeReg_lacking (s : State) (r : Reg) (v : Word) :
    (s.lacking c).writeReg r v = (s.writeReg r v).lacking c := by
  unfold State.writeReg
  split <;> rfl

theorem State.finish_lacking {r : Reg} {v : Word} (h : s.finish r v = .next t) :
    (s.lacking c).finish r v = .next (t.lacking c) := by
  obtain rfl := Host.Outcome.next.inj h
  exact next_advance_lacking c (s.writeReg_lacking c r v)

theorem State.jump_lacking {p : Word} (h : s.jump p = .next t) : (s.lacking c).jump p = .next (t.lacking c) := by
  obtain ⟨ha, rfl⟩ := State.jump_eq_next h
  exact State.jump_next ha

theorem State.branchIf_lacking {rel : Relation} {rA rB : Reg} {imm16 : Half}
    (h : s.branchIf rel rA rB imm16 = .next t) : (s.lacking c).branchIf rel rA rB imm16 = .next (t.lacking c) := by
  by_cases hrel : relationHolds rel (s.readReg rA) (s.readReg rB) = true
  · rw [State.branchIf, if_pos hrel] at h
    exact (if_pos hrel).trans (State.jump_lacking c h)
  · rw [State.branchIf, if_neg hrel] at h
    obtain rfl := Host.Outcome.next.inj h
    exact if_neg hrel

theorem State.loadInto_lacking {io : Bool} {width : AccessWidth} {extend : Word → Word} {rB : Reg} {imm16 : Half}
    {rA : Reg} (h : s.loadInto io width extend rB imm16 rA = .next t) :
    (s.lacking c).loadInto io width extend rB imm16 rA = .next (t.lacking c) := by
  obtain ⟨r, hr, hf⟩ := andThen_eq_next h
  obtain ⟨ha, hm, hx, rfl⟩ := State.load_eq_next hr
  have hload := State.load_next (s := s.lacking c) ha hm hx
  exact (congrArg (andThen · _) hload).trans (State.finish_lacking c hf)

theorem State.storeFrom_lacking {io : Bool} {width : AccessWidth} {rB : Reg} {imm16 : Half} {rA : Reg}
    (h : s.storeFrom io width rB imm16 rA = .next t) :
    (s.lacking c).storeFrom io width rB imm16 rA = .next (t.lacking c) := by
  obtain ⟨u, hu, ht⟩ := andThen_eq_next h
  obtain ⟨ha, hm, hx, rfl⟩ := State.store_eq_next hu
  obtain rfl := Host.Outcome.next.inj ht
  exact congrArg (andThen · _) (State.store_next (s := s.lacking c) ha hm hx _)

theorem State.customWrite_lacking (s : State) (xC : XReg) (out : Word × CustomLogic) :
    (s.lacking c).customWrite xC out = (s.customWrite xC out).lacking c := by
  cases xC with
  | r i => exact State.writeReg_lacking c { s with custom := out.2 } i out.1
  | c i => rfl

theorem State.customCall_lacking (s : State) (n : Byte) (xC xA xB : XReg) :
    (s.lacking c).customCall n xC xA xB = s.customCall n xC xA xB := by
  cases xA <;> cases xB <;> rfl

theorem execCustom_lacking {n : Byte} {xC xA xB : XReg} (h : execCustom n xC xA xB s = .next t) :
    execCustom n xC xA xB (s.lacking c) = .next (t.lacking c) := by
  by_cases hn : n ∈ s.cfg.customPresent
  · obtain rfl := Host.Outcome.next.inj ((exec_custom_present hn xC xA xB).symm.trans h)
    refine (exec_custom_present (s := s.lacking c) hn xC xA xB).trans (next_advance_lacking c ?_)
    rw [State.customCall_lacking, State.customWrite_lacking]
  · cases (exec_custom_absent hn xC xA xB).symm.trans h

theorem State.flushDataLine_lacking (s : State) (p : Word) :
    (s.lacking c).flushDataLine p = (s.flushDataLine p).lacking c := by
  cases hc : s.cfg.dcacheLine with
  | none => rw [State.flushDataLine_none hc, State.flushDataLine_none (s := s.lacking c) hc]
  | some k => rw [State.flushDataLine_some hc, State.flushDataLine_some (s := s.lacking c) hc]; rfl

theorem State.invalidateDataLine_lacking (s : State) (p : Word) :
    (s.lacking c).invalidateDataLine p = (s.invalidateDataLine p).lacking c := by
  cases hc : s.cfg.dcacheLine with
  | none => rw [State.invalidateDataLine_none hc, State.invalidateDataLine_none (s := s.lacking c) hc]
  | some k => rw [State.invalidateDataLine_some hc, State.invalidateDataLine_some (s := s.lacking c) hc]; rfl

theorem State.invalidateInstructionLine_lacking (s : State) (p : Word) :
    (s.lacking c).invalidateInstructionLine p = (s.invalidateInstructionLine p).lacking c := by
  cases hc : s.cfg.icacheLine with
  | none => rw [State.invalidateInstructionLine_none hc, State.invalidateInstructionLine_none (s := s.lacking c) hc]
  | some k =>
    rw [State.invalidateInstructionLine_some hc, State.invalidateInstructionLine_some (s := s.lacking c) hc]
    rfl

theorem State.readCtl_lacking {n : CtlNum} {r : Word × State} (h : s.readCtl n = .next r) :
    (s.lacking c).readCtl n = .next (r.1, r.2.lacking c) := by
  obtain ⟨_ | _ | _ | _ | _ | _ | _, _⟩ := n
  case succ.succ.succ.succ.succ.succ => cases h
  all_goals
    obtain rfl := Host.Outcome.next.inj h
    rfl

theorem State.writeCtl_lacking {n : CtlNum} {v : Word} (h : s.writeCtl n v = .next t) :
    (s.lacking c).writeCtl n v = .next (t.lacking c) := by
  obtain ⟨_ | _ | _ | _ | _ | _ | _, _⟩ := n
  case zero =>
    by_cases hset : v.getLsbD 1 = true ∧ s.cfg.hasUserMode = true
    · cases (State.writeCtl_status_refused hset).symm.trans h
    · obtain rfl := Host.Outcome.next.inj ((State.writeCtl_status_next hset).symm.trans h)
      exact State.writeCtl_status_next (s := s.lacking c) hset
  case succ.succ.succ.succ.zero | succ.succ.succ.succ.succ.succ => cases h
  all_goals
    obtain rfl := Host.Outcome.next.inj h
    rfl

theorem State.privileged_lacking {body body' : Result} (h : s.privileged body = .next t)
    (hbody : body = .next t → body' = .next (t.lacking c)) : (s.lacking c).privileged body' = .next (t.lacking c) := by
  rcases State.privileged_eq_next h with ⟨hu, rfl⟩ | ⟨hu, hb⟩
  · exact State.privileged_of_user (s := s.lacking c) hu body'
  · exact (State.privileged_of_supervisor (s := s.lacking c) hu body').trans (hbody hb)

/-- An instruction that every core has runs alike whatever the core lacks, by the shared operation its meaning ends
in. -/
theorem exec_lacking {i : Instr} (hi : ∀ d, absentOn d i = false) (h : exec i s = .next t) :
    exec i (s.lacking c) = .next (t.lacking c) := by
  cases i with
  | mul | muli | mulxss | mulxsu | mulxuu | div | divu => cases hi Config.lackingAll
  | and | or | xor | nor | andi | ori | xori | andhi | orhi | xorhi | add | sub | addi | subi | mov | movhi | movi
  | movui | rol | ror | roli | sll | slli | sra | srl | srai | srli | cmpeq | cmpne | cmpge | cmpgeu | cmpgt | cmpgtu
  | cmple | cmpleu | cmplt | cmpltu | cmpeqi | cmpnei | cmpgei | cmpgeui | cmpgti | cmpgtui | cmplei | cmpleui | cmplti
  | cmpltui => exact State.finish_lacking c h
  | ldw | ldwio | ldb | ldbu | ldbio | ldbuio | ldh | ldhu | ldhio | ldhuio => exact State.loadInto_lacking c h
  | stw | stwio | stb | stbio | sth | sthio => exact State.storeFrom_lacking c h
  | bge | bgeu | bgt | bgtu | ble | bleu | blt | bltu | beq | bne => exact State.branchIf_lacking c h
  | br | jmp | ret | call | callr => exact State.jump_lacking c h
  | custom => exact execCustom_lacking c h
  | nop | sync | flushp | trap | brk =>
    obtain rfl := Host.Outcome.next.inj h
    rfl
  | movia rB label =>
    obtain rfl := Host.Outcome.next.inj h
    exact next_advance_lacking c (congrArg State.advance (s.writeReg_lacking c rB label))
  | flushd =>
    obtain rfl := Host.Outcome.next.inj h
    exact next_advance_lacking c (s.flushDataLine_lacking c _)
  | flushi =>
    obtain rfl := Host.Outcome.next.inj h
    exact next_advance_lacking c (s.invalidateInstructionLine_lacking c _)
  | initd =>
    refine State.privileged_lacking c h fun hb => ?_
    obtain rfl := Host.Outcome.next.inj hb
    exact next_advance_lacking c (s.invalidateDataLine_lacking c _)
  | initi =>
    refine State.privileged_lacking c h fun hb => ?_
    obtain rfl := Host.Outcome.next.inj hb
    exact next_advance_lacking c (s.invalidateInstructionLine_lacking c _)
  | rdctl =>
    refine State.privileged_lacking c h fun hb => ?_
    obtain ⟨r, hr, hf⟩ := andThen_eq_next hb
    exact (congrArg (andThen · _) (State.readCtl_lacking c hr)).trans (State.finish_lacking c hf)
  | wrctl =>
    refine State.privileged_lacking c h fun hb => ?_
    obtain ⟨u, hw, ht⟩ := andThen_eq_next hb
    obtain rfl := Host.Outcome.next.inj ht
    exact congrArg (andThen · _) (State.writeCtl_lacking c hw)
  | eret => exact State.privileged_lacking c h (State.jump_lacking c)
  | bret => exact State.privileged_lacking c h (State.jump_lacking c)

end Lacking

/-- A potentially unimplemented instruction on a core that lacks it (60_exceptions.md R303). -/
theorem State.unlessAbsent_takesException {s : State} {absent : Bool} (h : absent = true) (body : Result) :
    TakesException (s.unlessAbsent absent body) s (s.pc + 4#32) := by
  rw [h, State.unlessAbsent_true]
  exact s.exceptionEntry_takesException _

/-- Settles O34: each of the seven has the check before its body, and no other instruction looks at what the core
lacks. -/
theorem unimplementedInstructions : Obligations.UnimplementedInstructions := by
  intro s rC rA rB imm16
  have absent {b : Bool} {body : Result} (h : b = true) := State.unlessAbsent_takesException (s := s) h body
  refine ⟨absent, absent, absent, absent, absent, absent, absent, fun i c t hi h => ?_⟩
  have hlack : { t with cfg := { s.cfg with unimplemented := c } } = t.lacking c := by rw [State.lacking, exec_cfg h]
  rw [hlack]
  exact exec_lacking c hi h

end Sys2Proof.Machine
end

section
/-! PROOFS of the family 60_exceptions.md: what a step can do to the mode and the control registers, the hardware
break and the hardware interrupt, an entry followed by its return, and a debug tool's changes. -/

namespace Sys2Proof.Machine

/-! ### What one step can do to the control registers (00_scope.md R8) -/

/-- Everything a step from `s` that answers `t` can have done to the configuration, the control registers and the
debug mode bit, in terms of the state `u` that the boundary and the fetch have left. -/
inductive StepEffect (s u t : State) : Prop
  /-- A hardware break. -/
  | hardwareBreak (demanded : s.breakDemanded = true) (result : t = u.breakEntry (u.pc + 4#32))
  /-- A hardware interrupt, or an invalid word under the trap policy. -/
  | exception (result : t = u.exceptionEntry (u.pc + 4#32))
  /-- An invalid word under the no-operation policy. -/
  | skipped (result : t = u.advance)
  /-- The fetched instruction. -/
  | instruction (i : Instr) (r : Word × State) (noBreak : s.breakDemanded = false)
      (noInterrupt : s.interruptTaken = false) (fetched : s.sampled.fetch = .next r) (decoded : decodeWord r.1 = .ok i)
      (effect : ControlEffect i u t)

theorem State.fetch_sameControl {s : State} {r : Word × State} (h : s.fetch = .next r) : s.SameControl r.2 := by
  obtain ⟨-, -, -, rfl⟩ := State.fetch_eq_next h
  exact ⟨rfl, rfl, rfl, rfl, rfl, rfl⟩

/-- The effect of every step that answers, at a state that the fetch may have reached from the boundary's. -/
theorem step_stepEffect {s t : State} (h : step s = .next t) : ∃ u, s.sampled.SameControl u ∧ StepEffect s u t := by
  rcases step_eq_next h with ⟨hb, ht⟩ | ⟨-, -, ht⟩ | ⟨hb, hi, r, hr, ⟨i, hd, hx⟩ | ⟨e, -, hx⟩⟩
  · exact ⟨_, .rfl' _, .hardwareBreak hb ht⟩
  · exact ⟨_, .rfl' _, .exception ht⟩
  · exact ⟨r.2, State.fetch_sameControl hr, .instruction i r hb hi hr hd (exec_controlEffect hx)⟩
  · refine ⟨r.2, State.fetch_sameControl hr, ?_⟩
    rcases State.invalidWord_eq_next hx with ht | ht
    · exact .skipped ht
    · exact .exception ht

/-! ### The mode, read from the state (10_state.md R41) -/

theorem State.mode_eq_debug_iff (s : State) : s.mode = .debug ↔ s.inDebug = true := by
  cases hd : s.inDebug <;> cases hu : s.status.u <;> simp [State.mode, hd, hu]

theorem State.mode_eq_user_iff (s : State) : s.mode = .user ↔ s.inDebug = false ∧ s.status.u = true := by
  cases hd : s.inDebug <;> cases hu : s.status.u <;> simp [State.mode, hd, hu]

theorem State.mode_eq_supervisor_iff (s : State) : s.mode = .supervisor ↔ s.inDebug = false ∧ s.status.u = false := by
  cases hd : s.inDebug <;> cases hu : s.status.u <;> simp [State.mode, hd, hu]

/-- The mode depends on `status.U` and the debug mode bit alone. -/
theorem State.mode_congr {s t : State} (hd : t.inDebug = s.inDebug) (hs : t.status = s.status) : t.mode = s.mode := by
  rw [State.mode, hd, hs, State.mode]

@[simp] theorem State.sampled_inDebug (s : State) : s.sampled.inDebug = s.inDebug := by
  obtain ⟨-, hdebug, -⟩ := s.sampled_same
  exact hdebug

/-- Outside debug mode the boundary leaves the control registers (60_exceptions.md R312). -/
theorem State.sampled_sameControl {s : State} (h : s.inDebug = false) : s.SameControl s.sampled := by
  have noTool : (s.cfg.hasJtagDebug && s.inDebug) = false := by rw [h, Bool.and_false]
  obtain ⟨-, -, same, -⟩ := State.sampled_keeps_processor noTool
  exact same

/-! ### What user mode can do (60_exceptions.md R285, R304) -/

section Effects
variable {i : Instr} {s u t : State}

/-- In user mode an instruction leaves the control registers or makes an entry: the returns and `wrctl` are
privileged. -/
theorem ControlEffect.of_user (h : ControlEffect i s t) (hu : s.status.u = true) :
    s.SameControl t ∨ t = s.exceptionEntry (s.pc + 4#32) ∨ t = s.breakEntry (s.pc + 4#32) := by
  cases h with
  | kept same => exact .inl same
  | exception _ result => exact .inr (.inl result)
  | breakEntry _ _ result => exact .inr (.inr result)
  | exceptionReturn _ notUser | breakReturn _ _ notUser | writeCtl _ _ _ _ notUser =>
    exact absurd hu (Bool.eq_false_iff.mp notUser)

theorem StepEffect.of_user (h : StepEffect s u t) (hu : u.status.u = true) :
    u.SameControl t ∨ t = u.exceptionEntry (u.pc + 4#32) ∨ t = u.breakEntry (u.pc + 4#32) := by
  cases h with
  | hardwareBreak _ result => exact .inr (.inr result)
  | exception result => exact .inr (.inl result)
  | skipped result => exact .inl (result ▸ u.advance_sameControl)
  | instruction i _ _ _ _ _ effect => exact effect.of_user hu

end Effects

/-- Settles O45, by the three things a step from user mode can do. -/
theorem userModeConfined : Obligations.UserModeConfined := by
  intro s t hmode h
  obtain ⟨hdebug, huser⟩ := s.mode_eq_user_iff.mp hmode
  obtain ⟨u, hsame, effect⟩ := step_stepEffect h
  obtain ⟨hcfg, hstatus, hestatus, hbstatus, hienable, hin⟩ := (State.sampled_sameControl hdebug).trans hsame
  rw [← hcfg, ← hstatus, ← hestatus, ← hbstatus, ← hienable]
  rcases effect.of_user (hstatus ▸ huser) with same | rfl | rfl
  · have hkept : t.inDebug = false := same.inDebug.trans (hin.trans hdebug)
    have hmode' : t.mode = .user := t.mode_eq_user_iff.mpr ⟨hkept, by rw [same.status, hstatus, huser]⟩
    exact .inl ⟨hmode', same.status, same.estatus, same.bstatus, same.ienable, hkept⟩
  · refine .inr (.inl ⟨(State.mode_eq_supervisor_iff _).mpr ⟨?_, ?_⟩, ?_⟩) <;>
      simp [hin, hdebug, exceptionAddr, StatusBits.clear]
  · refine .inr (.inr ⟨(State.mode_eq_debug_iff _).mpr ?_, ?_⟩) <;> simp [breakAddr, StatusBits.clear]

/-! ### The causes of a change of mode (60_exceptions.md R286) -/

section Transitions
variable {i : Instr} {s t : State}

/-- A returned status has `U` set only on a core with user mode, where the copy had it set (60_exceptions.md R288). -/
theorem statusFor_u_eq_true {c : Config} {b : StatusBits} (h : (statusFor c b).u = true) :
    c.hasUserMode = true ∧ b.u = true := by
  simpa [statusFor, and_comm] using h

/-- Only the two returns set `status.U`; `wrctl status` cannot (46_other_control.md R255). -/
theorem ControlEffect.sets_user (h : ControlEffect i s t) (hs : s.status.u = false) (ht : t.status.u = true) :
    s.cfg.hasUserMode = true ∧ ((i = .eret ∧ s.estatus.u = true) ∨ ∃ c, i = .bret c ∧ s.bstatus.u = true) := by
  cases h with
  | kept same => simp [same.status, hs] at ht
  | exception _ result | breakEntry _ _ result => simp [result] at ht
  | exceptionReturn instr _ result =>
    obtain ⟨-, rfl⟩ := State.exceptionReturn_eq_next result
    obtain ⟨hmode, heu⟩ := statusFor_u_eq_true ht
    exact ⟨hmode, .inl ⟨instr, heu⟩⟩
  | breakReturn c instr _ result =>
    obtain ⟨-, rfl⟩ := State.breakReturn_eq_next result
    obtain ⟨hmode, hbu⟩ := statusFor_u_eq_true ht
    exact ⟨hmode, .inr ⟨c, instr, hbu⟩⟩
  | writeCtl n rA u _ _ written result =>
    rcases State.writeCtl_eq_next written with ⟨-, rfl⟩ | ⟨-, rfl⟩ | ⟨-, rfl⟩ | ⟨-, rfl⟩ | ⟨-, rfl⟩ <;>
      simp [result, hs] at ht

/-- The debug mode bit is kept, set by `break`, or cleared by `bret` (10_state.md R41). -/
theorem ControlEffect.inDebug_cases (h : ControlEffect i s t) :
    t.inDebug = s.inDebug ∨ (t.inDebug = true ∧ ∃ k, i = .brk k) ∨ (t.inDebug = false ∧ ∃ c, i = .bret c) := by
  cases h with
  | kept same => exact .inl same.inDebug
  | exception _ result => exact .inl (by simp [result])
  | breakEntry k instr result => exact .inr (.inl ⟨by simp [result], k, instr⟩)
  | exceptionReturn _ _ result =>
    obtain ⟨-, -, -, hkept⟩ := State.exceptionReturn_keeps result
    exact .inl hkept
  | breakReturn c instr _ result =>
    obtain ⟨-, rfl⟩ := State.breakReturn_eq_next result
    exact .inr (.inr ⟨rfl, c, instr⟩)
  | writeCtl n rA u _ _ written result =>
    obtain ⟨-, -, -, -, hkept⟩ := State.writeCtl_keeps written
    exact .inl (by rw [result, State.advance_inDebug, hkept])

/-- From supervisor to user mode only by a return, on a core with user mode (60_exceptions.md R286, R297, R313). -/
theorem step_supervisor_to_user (h : step s = .next t) (hs : s.mode = .supervisor) (ht : t.mode = .user) :
    s.breakDemanded = false ∧ s.interruptTaken = false ∧ s.cfg.hasUserMode = true ∧ ∃ r, s.sampled.fetch = .next r ∧
      ((decodeWord r.1 = .ok .eret ∧ s.estatus.u = true) ∨
        ∃ c, decodeWord r.1 = .ok (.bret c) ∧ s.bstatus.u = true) := by
  obtain ⟨hdebug, hu⟩ := s.mode_eq_supervisor_iff.mp hs
  obtain ⟨-, htu⟩ := t.mode_eq_user_iff.mp ht
  obtain ⟨u, hsame, effect⟩ := step_stepEffect h
  obtain ⟨hcfg, hstatus, hestatus, hbstatus, -, -⟩ := (State.sampled_sameControl hdebug).trans hsame
  rw [← hcfg, ← hestatus, ← hbstatus]
  rw [← hstatus] at hu
  cases effect with
  | hardwareBreak _ result | exception result => simp [result] at htu
  | skipped result => simp [result, hu] at htu
  | instruction i r noBreak noInterrupt fetched decoded effect =>
    obtain ⟨hmode, hcause⟩ := effect.sets_user hu htu
    refine ⟨noBreak, noInterrupt, hmode, r, fetched, ?_⟩
    rcases hcause with ⟨rfl, heu⟩ | ⟨c, rfl, hbu⟩
    · exact .inl ⟨decoded, heu⟩
    · exact .inr ⟨c, decoded, hbu⟩

/-- Into debug mode only by a hardware break or by `break` (60_exceptions.md R310, R312). -/
theorem step_enters_debug (h : step s = .next t) (hs : s.inDebug = false) (ht : t.inDebug = true) :
    s.breakDemanded = true ∨ ∃ r k, s.sampled.fetch = .next r ∧ decodeWord r.1 = .ok (.brk k) := by
  obtain ⟨u, hsame, effect⟩ := step_stepEffect h
  have hu : u.inDebug = false := by rw [hsame.inDebug, State.sampled_inDebug, hs]
  cases effect with
  | hardwareBreak demanded => exact .inl demanded
  | exception result | skipped result => simp [result, hu] at ht
  | instruction i r _ _ fetched decoded effect =>
    rcases effect.inDebug_cases with hkept | ⟨-, k, rfl⟩ | ⟨hclear, -⟩
    · simp [hkept, hu] at ht
    · exact .inr ⟨r, k, fetched, decoded⟩
    · simp [hclear] at ht

/-- Out of debug mode only by `bret` (60_exceptions.md R313). -/
theorem step_leaves_debug (h : step s = .next t) (hs : s.inDebug = true) (ht : t.inDebug = false) :
    ∃ r c, s.sampled.fetch = .next r ∧ decodeWord r.1 = .ok (.bret c) := by
  obtain ⟨u, hsame, effect⟩ := step_stepEffect h
  have hu : u.inDebug = true := by rw [hsame.inDebug, State.sampled_inDebug, hs]
  cases effect with
  | hardwareBreak _ result | exception result | skipped result => simp [result, hu] at ht
  | instruction i r _ _ fetched decoded effect =>
    rcases effect.inDebug_cases with hkept | ⟨hset, -⟩ | ⟨-, c, rfl⟩
    · simp [hkept, hu] at ht
    · simp [hset] at ht
    · exact ⟨r, c, fetched, decoded⟩

/-- From user to supervisor mode only by an exception (60_exceptions.md R290). -/
theorem step_user_to_supervisor (h : step s = .next t) (hs : s.mode = .user) (ht : t.mode = .supervisor) :
    t.pc = s.cfg.exceptionWord ++ 0#2 := by
  rcases userModeConfined s t hs h with ⟨hmode, -⟩ | ⟨-, hpc, -⟩ | ⟨hmode, -⟩
  · simp [ht] at hmode
  · exact hpc
  · simp [ht] at hmode

end Transitions

/-- Settles O46, one change of mode after another. -/
theorem modeTransitions : Obligations.ModeTransitions := by
  intro s t h
  refine ⟨step_supervisor_to_user h, ?_, ?_, step_user_to_supervisor h⟩ <;>
    simp only [ne_eq, State.mode_eq_debug_iff, Bool.not_eq_true]
  · exact step_enters_debug h
  · exact step_leaves_debug h

/-! ### Privileged instructions in user mode (60_exceptions.md R304) -/

/-- Each of the six has the privilege check before its operands (92 D12). -/
theorem exec_privileged_of_user {i : Instr} {s : State} (hi : isPrivileged i = true) (hu : s.status.u = true) :
    exec i s = .next (s.exceptionEntry (s.pc + 4#32)) := by
  cases i with
  | rdctl | wrctl | bret | eret | initd | initi => exact State.privileged_of_user hu _
  | _ => cases hi

/-- Settles O33. -/
theorem privilegedInUserMode : Obligations.PrivilegedInUserMode := by
  intro s
  refine ⟨fun hu i hi => ?_, fun _ _ _ _ _ => ⟨rfl, rfl, rfl, rfl, rfl, rfl⟩, fun hs hm => ?_⟩
  · rw [exec_privileged_of_user hi hu]
    exact s.exceptionEntry_takesException _
  · obtain ⟨hu, -, -⟩ := hs.noUserMode hm
    exact hu

/-! ### Hardware breaks and interrupts (60_exceptions.md R294, R300, R312) -/

section Boundary
variable {s : State}

theorem step_of_breakDemanded (hb : s.breakDemanded = true) :
    step s = .next (s.sampled.breakEntry (s.sampled.pc + 4#32)) := by
  rw [step, State.stepWith, if_pos hb]

theorem step_of_interruptTaken (hb : s.breakDemanded = false) (hi : s.interruptTaken = true) :
    step s = .next (s.sampled.exceptionEntry (s.sampled.pc + 4#32)) := by
  rw [step, State.stepWith, hb, if_neg Bool.false_ne_true, if_pos hi]

theorem State.sampled_irq (s : State) : s.sampled.irq = s.boundary.irq := by
  obtain ⟨-, -, -, -, -, -, -, hirq, -⟩ := s.sampled_same
  exact hirq

theorem State.interruptTaken_eq_false (h : s.sampled.interruptRequest = false ∨ s.boundary.accept = false) :
    s.interruptTaken = false := by
  rw [State.interruptTaken, Bool.and_eq_false_iff]
  exact h

end Boundary

/-- Settles O38: the interrupt is taken exactly where its condition holds after the boundary and the boundary
accepts it, and the status it saves had `PIE` set. -/
theorem interruptTaken : Obligations.InterruptTaken := by
  intro s hb
  refine ⟨s.sampled_irq, s.sampled_irq ▸ s.sampled.interruptRequest_iff, fun hreq haccept => ?_, fun h => ?_,
    fun hnil hreq => ?_⟩
  · have hstep := step_of_interruptTaken hb (by rw [State.interruptTaken, hreq, haccept]; rfl)
    obtain ⟨hpie, -⟩ := s.sampled.interruptRequest_iff.mp hreq
    exact ⟨hstep ▸ s.sampled.exceptionEntry_takesException _, _, hstep, by rw [State.exceptionEntry_estatus, hpie]⟩
  · exact step_eq_runFetched hb (State.interruptTaken_eq_false h)
  · obtain ⟨hsampled, -, htaken⟩ := State.boundaryEffect_nil hnil
    rw [step_of_interruptTaken hb (htaken.trans hreq), hsampled]
    exact s.exceptionEntry_takesException _

/-- Settles O39. -/
theorem hardwareBreak : Obligations.HardwareBreak := by
  refine fun s => ⟨fun hjtag hdemand => ?_, fun hjtag => ?_⟩
  · rw [step_of_breakDemanded (by rw [State.breakDemanded, hjtag, hdemand]; rfl)]
    exact s.sampled.breakEntry_takesBreak _
  · have noBreak : s.breakDemanded = false := by rw [State.breakDemanded, hjtag, Bool.false_and]
    exact ⟨noBreak, fun hreq => step_eq_runFetched noBreak (State.interruptTaken_eq_false (.inl hreq))⟩

/-! ### An entry followed by its return (60_exceptions.md R297, R298, R313) -/

/-- A status that respects the core's lack of user mode is returned as it was saved (60_exceptions.md R288). -/
theorem statusFor_eq_self {c : Config} {b : StatusBits} (h : c.hasUserMode = false → b.u = false) :
    statusFor c b = b := by
  cases hm : c.hasUserMode
  · rw [statusFor, hm, Bool.and_false, ← h hm]
  · rw [statusFor, hm, Bool.and_true]

theorem State.Sound.statusFor_status {s : State} (hs : s.Sound) : statusFor s.cfg s.status = s.status :=
  statusFor_eq_self fun hm => (hs.noUserMode hm).1

theorem State.SameOutside.trans {s t u : State} (h : s.SameOutside t) (k : t.SameOutside u) : s.SameOutside u :=
  ⟨k.irq.trans h.irq, k.inputs.trans h.inputs, k.custom.trans h.custom, k.ioLog.trans h.ioLog,
    k.stored.trans h.stored, k.views.trans h.views, k.draws.trans h.draws⟩

theorem State.RegsAfter.sameRegs {s t u : State} {r : Reg} {v : Word} (h : s.RegsAfter t r v) (k : t.SameRegs u) :
    s.RegsAfter u r v := fun q => (k q).trans (h q)

/-- A second write to the same register is the one that remains. -/
theorem State.RegsAfter.overwrite {s t u : State} {r : Reg} {v w : Word} (h : s.RegsAfter t r v)
    (k : t.RegsAfter u r w) : s.RegsAfter u r w := by
  intro q
  rw [k q, h q]
  split <;> rfl

theorem State.RegsAfter.readReg_self {s t : State} {r : Reg} {v : Word} (h : s.RegsAfter t r v) (hr : r ≠ 0) :
    t.readReg r = v := (h r).trans (if_pos ⟨rfl, hr⟩)

/-- The state `t` of an exception's handler: what the entry at `s` has left, wherever the handler's `pc` stands, with
`ret` in `ea` (60_exceptions.md R290, R291). -/
structure State.HandledIn (s t : State) (ret : Word) : Prop where
  estatus : t.estatus = s.status
  status : t.status = .clear
  regs : s.RegsAfter t 29 ret
  cfg : t.cfg = s.cfg
  bstatus : t.bstatus = s.bstatus
  ienable : t.ienable = s.ienable
  inDebug : t.inDebug = s.inDebug
  mem : s.SameMemory t
  outside : s.SameOutside t

theorem State.exceptionEntry_handledIn (s : State) (ret : Word) : s.HandledIn (s.exceptionEntry ret) ret := by
  obtain ⟨_, ⟨⟩, hestatus, hstatus, hregs, -, hcfg, hbstatus, hienable, hdebug, hmem, hout⟩ :=
    s.exceptionEntry_takesException ret
  exact ⟨hestatus, hstatus, hregs, hcfg, hbstatus, hienable, hdebug, hmem, hout⟩

section HandledIn
variable {s t : State} {ret : Word}

/-- A handler that writes `ea` changes its return address (60_exceptions.md R301). -/
theorem State.HandledIn.writesOnly {o : Result} {v : Word} (h : s.HandledIn t ret) (ho : WritesOnly o t 29 v) :
    ∃ u, o = .next u ∧ s.HandledIn u v := by
  obtain ⟨u, hu, -, hregs, hctl, hmem, hout⟩ := ho
  exact ⟨u, hu, hctl.estatus.trans h.estatus, hctl.status.trans h.status, h.regs.overwrite hregs,
    hctl.cfg.trans h.cfg, hctl.bstatus.trans h.bstatus, hctl.ienable.trans h.ienable, hctl.inDebug.trans h.inDebug,
    fun a => (hmem a).trans (h.mem a), h.outside.trans hout⟩

/-- `eret` in a handler answers and undoes the entry but for `ea` and `estatus` (60_exceptions.md R297, R298). -/
theorem State.HandledIn.eret (h : s.HandledIn t ret) (hs : s.Sound) (ha : ret.toNat % 4 = 0) :
    ∃ u, exec .eret t = .next u ∧ u.pc = ret ∧ u.status = s.status ∧ u.estatus = s.status ∧ s.RegsAfter u 29 ret ∧
      u.bstatus = s.bstatus ∧ u.ienable = s.ienable ∧ u.inDebug = s.inDebug ∧ u.cfg = s.cfg ∧ s.SameMemory u ∧
      s.SameOutside u := by
  have hea : t.readReg 29 = ret := h.regs.readReg_self (by decide)
  have hexec : exec .eret t = (t.restored s.status s.inDebug).jump ret := by
    refine (State.privileged_of_supervisor (by rw [h.status]; rfl) _).trans ?_
    rw [State.exceptionReturn_eq_jump, hea, h.cfg, h.estatus, hs.statusFor_status, h.inDebug]
  obtain ⟨u, hu, hpc, hstatus, hdebug, hregs, hcfg, hestatus, hbstatus, hienable, hmem, hout⟩ :=
    State.restored_jump_returns (s := t) ha s.status s.inDebug
  exact ⟨u, hexec.trans hu, hpc, hstatus, hestatus.trans h.estatus, h.regs.sameRegs hregs, hbstatus.trans h.bstatus,
    hienable.trans h.ienable, hdebug, hcfg.trans h.cfg, fun a => (hmem a).trans (h.mem a), h.outside.trans hout⟩

end HandledIn

/-- Settles O56. -/
theorem trapThenReturn : Obligations.TrapThenReturn := by
  intro s hs
  obtain ⟨u, hu, resumed⟩ := (s.exceptionEntry_handledIn _).eret hs (advance_aligned hs.pcAligned)
  exact ⟨_, u, rfl, hu, resumed⟩

/-- The handler's correction of `ea` undoes the addition of the entry (60_exceptions.md R301). -/
theorem next_add_neg_four (p : Word) : p + 4#32 + sextImm 0xFFFC#16 = p := by
  have himm : sextImm 0xFFFC#16 = 0xFFFFFFFC#32 := by decide
  bv_omega

/-- Settles O57: the handler's `addi` leaves the interrupted address in `ea`. -/
theorem interruptThenReturn : Obligations.InterruptThenReturn := by
  intro s hs
  have entered := s.exceptionEntry_handledIn (s.pc + 4#32)
  have hea : (s.exceptionEntry (s.pc + 4#32)).readReg 29 + sextImm 0xFFFC#16 = s.pc := by
    rw [entered.regs.readReg_self (by decide), next_add_neg_four]
  obtain ⟨t, ht, corrected⟩ := entered.writesOnly ((State.finish_writesOnly _ 29 _).of_eq hea)
  obtain ⟨u, hu, resumed⟩ := corrected.eret hs hs.pcAligned
  exact ⟨by decide, t, u, ht, hu, resumed⟩

/-- Settles O58. -/
theorem breakThenReturn : Obligations.BreakThenReturn := by
  intro s k c hs hmode
  have hdebug : s.inDebug = false := Bool.eq_false_iff.mpr (mt s.mode_eq_debug_iff.mpr hmode)
  have ha := advance_aligned hs.pcAligned
  obtain ⟨t, ht, hbstatus, hstatus, hregs, -, htdebug, hcfg, hestatus, hienable, hmem, hout⟩ :=
    s.breakEntry_takesBreak (s.pc + 4#32)
  have hba : t.readReg 30 = s.pc + 4#32 := hregs.readReg_self (by decide)
  have hexec : exec (.bret c) t = (t.restored s.status false).jump (s.pc + 4#32) := by
    refine (State.privileged_of_supervisor (by rw [hstatus]; rfl) _).trans ?_
    rw [State.breakReturn_eq_jump, hba, hcfg, hbstatus, hs.statusFor_status]
  obtain ⟨u, hu, hpc, hustatus, hudebug, huregs, hucfg, huestatus, hubstatus, huienable, humem, huout⟩ :=
    State.restored_jump_returns (s := t) ha s.status false
  exact ⟨t, u, ht, t.mode_eq_debug_iff.mpr htdebug, hexec.trans hu, hpc,
    State.mode_congr (hudebug.trans hdebug.symm) hustatus, hustatus, huestatus.trans hestatus,
    hubstatus.trans hbstatus, hregs.sameRegs huregs, huienable.trans hienable, hucfg.trans hcfg,
    fun a => (humem a).trans (hmem a), hout.trans huout⟩

/-! ### A debug tool's changes (60_exceptions.md R312) -/

section Debug
variable {s : State}

/-- In a debug tool's reach the changes are made one after another. -/
theorem State.edited_eq_foldl (h : (s.cfg.hasJtagDebug && s.inDebug) = true) (l : List DebugEdit) :
    s.edited l = l.foldl State.edit s := if_pos h

/-- Changes leave the state in a debug tool's reach. -/
theorem State.edited_append (h : (s.cfg.hasJtagDebug && s.inDebug) = true) (l m : List DebugEdit) :
    s.edited (l ++ m) = (s.edited l).edited m := by
  obtain ⟨hcfg, hdebug, -⟩ := State.foldl_edit_same l s
  have h' : ((l.foldl State.edit s).cfg.hasJtagDebug && (l.foldl State.edit s).inDebug) = true := by
    rw [hcfg, hdebug, h]
  rw [State.edited_eq_foldl h, State.edited_eq_foldl h, State.edited_eq_foldl h', List.foldl_append]

end Debug

/-- Settles O59. -/
theorem debugToolChanges : Obligations.DebugToolChanges := by
  refine fun s => ⟨fun h => ?_, State.edited_of_not⟩
  have single (e : DebugEdit) : s.edited [e] = s.edit e := State.edited_eq_foldl h [e]
  exact ⟨fun _ _ => single _, fun _ => single _, fun _ => single _, fun _ => single _, fun _ => single _,
    fun _ => single _, fun _ => single _, State.edited_append h⟩

end Sys2Proof.Machine
end
